-- ==== Sys2Proof/Word.lean ====
section
/-!
DEFINITION. The word type of the Intcode VM core and the small vocabulary that every other file uses: the three
addressing modes and the six fault causes.
-/

namespace Sys2Proof

/-- One `Word` of the machine (00_scope R7, WORD_BITS = 64 of R5): a memory cell, the relative base, an operand or a
value on the data channel. Its signed value is `BitVec.toInt`. -/
abbrev Word := BitVec 64

/-- `WORD_MIN` of R5. -/
abbrev wordMin : Int := -9223372036854775808

/-- `WORD_MAX` of R5, as the greatest signed value. -/
abbrev wordMax : Int := 9223372036854775807

/-- `WORD_MAX` of R5, as the greatest address (R33). -/
abbrev addrMax : Nat := 9223372036854775807

/-- The three addressing modes that a mode digit selects (30_encoding R52). -/
inductive Mode where
  /-- digit 0: the parameter word is an address, which is dereferenced -/
  | position
  /-- digit 1: the parameter word is the value -/
  | immediate
  /-- digit 2: as position, with the relative base added to the address -/
  | relative
  deriving DecidableEq, Repr

/-- The causes of a fault (60_exceptions R103). -/
inductive Cause where
  /-- code 1: the instruction word is negative, or its low two digits are no opcode -/
  | illegalOpcode
  /-- code 2: a mode digit is 3 to 9, or (strict) an unused digit is not 0 -/
  | illegalMode
  /-- code 3: a destination has the mode digit 1 -/
  | immediateDestination
  /-- code 4: a computed address is outside [0, WORD_MAX] -/
  | invalidAddress
  /-- code 5: a destination is at or above ADDR_LIMIT -/
  | capacityExceeded
  /-- code 6: the exact result is no word, under OVERFLOW = fault -/
  | arithmeticOverflow
  deriving DecidableEq, Repr

end Sys2Proof
end

