-- ==== Sys2Proof/Config.lean ====
section
/-!
DEFINITION. The configuration parameters of R5, which a reset fixes (R22), and the free values: what the spec leaves
to the host or to a draw. A free value is a constant without a body: nothing proves a value of it.
-/

namespace Sys2Proof

/-- `OVERFLOW` of R5: what add, mul and adjust-base do with an exact result that is no word (R11). -/
inductive Overflow where
  /-- two's complement wrap-around -/
  | wrap
  /-- raise ARITHMETIC_OVERFLOW -/
  | fault
  deriving DecidableEq, Repr

/-- `READY_DEPTH` of R5: the buffer depth of the readiness signal (R85). -/
inductive ReadyDepth where
  /-- depth 0: the pulse is a rendezvous with the host -/
  | zero
  /-- depth 1: the pulse is posted into a one-place buffer -/
  | one
  deriving DecidableEq, Repr

/-- The configuration parameters of R5. WORD_BITS is 64, in the type `Word`. -/
structure Config where
  /-- `OVERFLOW` -/
  overflow : Overflow
  /-- `ADDR_LIMIT`: the smallest address a write may not reach, or none -/
  addrLimit : Option Nat
  /-- `INTERACTIVE`: whether the readiness signal exists -/
  interactive : Bool
  /-- `READY_DEPTH` -/
  readyDepth : ReadyDepth
  /-- `STRICT_UNUSED_MODES` -/
  strictUnusedModes : Bool
  deriving DecidableEq, Repr

/-- This hardware's values (R5). INTERACTIVE has none in R5 ("a deployment choice"): DESIGN CHOICE false, the default
of 95_test_vectors.md; unsafe, log entry 3. -/
def Config.standard : Config :=
  { overflow := .wrap, addrLimit := none, interactive := false, readyDepth := .zero, strictUnusedModes := false }

/-- FREE VALUE (R83 "The host's choice of `v` is free"): the word that a serving host with no listed value gives, by the
count of steps so far. Safe, log entry 6. -/
opaque Config.hostWord : Nat → Word

/-- FREE VALUE (R87 "Which one happens is a draw"): whether a pulse still buffered at close is delivered by the first
read of the closed readiness channel, by the count of steps so far. Safe, log entry 10. -/
opaque Config.pulseDelivered : Nat → Bool

end Sys2Proof
end

