-- ==== Sys2Proof/Syntax.lean ====
section
/-!
DEFINITION. The instructions: one constructor for each row of spec/opcode_table.json. An instruction is what R28 and
R62 call the decoded instruction: the opcode and the modes of the parameters that the opcode has. The parameter
words are not part of it: they are read from memory when the parameters are resolved (R48, R71).
-/

namespace Sys2Proof

/-- A decoded instruction (10_state R28, 30_encoding R62). The argument `m1` is the mode of parameter 1, and so on;
where a constructor has a destination, it is its last parameter (R51). -/
inductive Instr where
  /-- opcode 1, R78: source, source, destination -/
  | add (m1 m2 m3 : Mode)
  /-- opcode 2, R79: source, source, destination -/
  | mul (m1 m2 m3 : Mode)
  /-- opcode 3, R91: destination -/
  | input (m1 : Mode)
  /-- opcode 4, R92: source -/
  | output (m1 : Mode)
  /-- opcode 5, R96: source (condition), source (target) -/
  | jumpIfTrue (m1 m2 : Mode)
  /-- opcode 6, R97: source (condition), source (target) -/
  | jumpIfFalse (m1 m2 : Mode)
  /-- opcode 7, R98: source, source, destination -/
  | lessThan (m1 m2 m3 : Mode)
  /-- opcode 8, R99: source, source, destination -/
  | equals (m1 m2 m3 : Mode)
  /-- opcode 9, R100: source -/
  | adjustBase (m1 : Mode)
  /-- opcode 99, R101: no parameters -/
  | halt
  deriving DecidableEq, Repr

end Sys2Proof
end

