-- ==== Sys2Proof/WellFormed.lean ====
section
/-!
DEFINITION. Which instructions are legal: a destination parameter is in position or relative mode (R51, R58).
-/

namespace Sys2Proof

/-- A destination's mode is legal when it is not immediate (30_encoding R54: "mode 1 is invalid for a destination"). -/
def Mode.isDestination : Mode → Bool
  | .position => true
  | .immediate => false
  | .relative => true

/-- The mode of the destination parameter, for the opcodes that have one (R51). -/
def Instr.destMode : Instr → Option Mode
  | .add _ _ m3 => some m3
  | .mul _ _ m3 => some m3
  | .input m1 => some m1
  | .output _ => none
  | .jumpIfTrue _ _ => none
  | .jumpIfFalse _ _ => none
  | .lessThan _ _ m3 => some m3
  | .equals _ _ m3 => some m3
  | .adjustBase _ => none
  | .halt => none

/-- An instruction is well formed when its destination, if it has one, is not immediate (R58). Every combination of
modes of the source parameters is legal. -/
def Instr.wellFormed (i : Instr) : Bool :=
  match i.destMode with
  | none => true
  | some m => m.isDestination

end Sys2Proof
end

