-- ==== Sys2Proof/Decode.lean ====
section
/-!
DEFINITION. Instruction words: the digits of a word (R8, R49), the total decoder (R62), and after it the encoder (R63),
the lengths (R50), and the reading of an opcode-table word.
-/

namespace Sys2Proof

/-- `digit(v, k)` of R8: the k-th decimal digit, the least significant being digit 0. -/
def digit (v k : Nat) : Nat := v / 10 ^ k % 10

/-- `digits[1:0](v)` of R8 and R49: the opcode field. -/
def opcodeDigits (v : Nat) : Nat := v % 100

/-- The addressing mode a digit selects (R52); the digits 3 to 9 select none. -/
def Mode.ofDigit : Nat → Option Mode
  | 0 => some .position
  | 1 => some .immediate
  | 2 => some .relative
  | _ => none

/-- The digit that selects a mode (R52). -/
def Mode.digit : Mode → Nat
  | .position => 0
  | .immediate => 1
  | .relative => 2

/-- The mode of source parameter `k` of the word `v`: digit `k + 1` (R49), refused when it is 3 to 9 (R58). -/
def sourceMode (v k : Nat) : Except Cause Mode :=
  match Mode.ofDigit (digit v (k + 1)) with
  | none => .error .illegalMode
  | some m => .ok m

/-- The mode of destination parameter `k`: as a source's, and then refused when it is immediate (R58, in that order). -/
def destinationMode (v k : Nat) : Except Cause Mode :=
  match sourceMode v k with
  | .error c => .error c
  | .ok m => if m.isDestination then .ok m else .error .immediateDestination

/-- The check of the digits that belong to no parameter of an opcode with `n` parameters (R59), after every check of
R58: ignored, or under STRICT_UNUSED_MODES illegal when not 0. -/
def checkUnused (strict : Bool) (v n : Nat) (i : Instr) : Except Cause Instr :=
  if strict && (v / 10 ^ (n + 2) != 0) then .error .illegalMode else .ok i

/-- Decoding with one source parameter (format F1: output, adjust-base). -/
def decodeS (strict : Bool) (v : Nat) (mk : Mode → Instr) : Except Cause Instr :=
  match sourceMode v 1 with
  | .error c => .error c
  | .ok m1 => checkUnused strict v 1 (mk m1)

/-- Decoding with one destination parameter (format F1: input). -/
def decodeD (strict : Bool) (v : Nat) (mk : Mode → Instr) : Except Cause Instr :=
  match destinationMode v 1 with
  | .error c => .error c
  | .ok m1 => checkUnused strict v 1 (mk m1)

/-- Decoding with two source parameters (format F2: the jumps). -/
def decodeSS (strict : Bool) (v : Nat) (mk : Mode → Mode → Instr) : Except Cause Instr :=
  match sourceMode v 1 with
  | .error c => .error c
  | .ok m1 =>
    match sourceMode v 2 with
    | .error c => .error c
    | .ok m2 => checkUnused strict v 2 (mk m1 m2)

/-- Decoding with two source parameters and a destination (format F3: add, mul, less-than, equals). -/
def decodeSSD (strict : Bool) (v : Nat) (mk : Mode → Mode → Mode → Instr) : Except Cause Instr :=
  match sourceMode v 1 with
  | .error c => .error c
  | .ok m1 =>
    match sourceMode v 2 with
    | .error c => .error c
    | .ok m2 =>
      match destinationMode v 3 with
      | .error c => .error c
      | .ok m3 => checkUnused strict v 3 (mk m1 m2 m3)

/-- The decoder on a non-negative word: the opcode map of R56, every other opcode illegal (R57). -/
def decodeNat (strict : Bool) (v : Nat) : Except Cause Instr :=
  match opcodeDigits v with
  | 1 => decodeSSD strict v .add
  | 2 => decodeSSD strict v .mul
  | 3 => decodeD strict v .input
  | 4 => decodeS strict v .output
  | 5 => decodeSS strict v .jumpIfTrue
  | 6 => decodeSS strict v .jumpIfFalse
  | 7 => decodeSSD strict v .lessThan
  | 8 => decodeSSD strict v .equals
  | 9 => decodeS strict v .adjustBase
  | 99 => checkUnused strict v 0 .halt
  | _ => .error .illegalOpcode

/-- `decode(w)` of R62: a total function of the instruction word and of STRICT_UNUSED_MODES. A negative word has no
fields and is illegal (R57). -/
def decode (strict : Bool) (w : Word) : Except Cause Instr :=
  if w.toInt < 0 then .error .illegalOpcode else decodeNat strict w.toNat

/-- The opcode of an instruction (R56). -/
def Instr.opcode : Instr → Nat
  | .add _ _ _ => 1
  | .mul _ _ _ => 2
  | .input _ => 3
  | .output _ => 4
  | .jumpIfTrue _ _ => 5
  | .jumpIfFalse _ _ => 6
  | .lessThan _ _ _ => 7
  | .equals _ _ _ => 8
  | .adjustBase _ => 9
  | .halt => 99

/-- The modes of the parameters, in parameter order (R51). -/
def Instr.modes : Instr → List Mode
  | .add m1 m2 m3 => [m1, m2, m3]
  | .mul m1 m2 m3 => [m1, m2, m3]
  | .input m1 => [m1]
  | .output m1 => [m1]
  | .jumpIfTrue m1 m2 => [m1, m2]
  | .jumpIfFalse m1 m2 => [m1, m2]
  | .lessThan m1 m2 m3 => [m1, m2, m3]
  | .equals m1 m2 m3 => [m1, m2, m3]
  | .adjustBase m1 => [m1]
  | .halt => []

/-- The number of words of an instruction: 1 and its parameter count (R50, R61). -/
def Instr.width (i : Instr) : Nat := 1 + i.modes.length

/-- The value of a list of mode digits, the first least significant: `m_1 + 10*m_2 + 100*m_3` (R49). -/
def modeDigits : List Mode → Nat
  | [] => 0
  | m :: ms => m.digit + 10 * modeDigits ms

/-- The instruction word as a number: `op + 100*m_1 + 1000*m_2 + 10000*m_3`, absent modes 0 (R63). -/
def encodeNat (i : Instr) : Nat := i.opcode + 100 * modeDigits i.modes

/-- The instruction word of an instruction (R63). -/
def encode (i : Instr) : Word := BitVec.ofNat 64 (encodeNat i)

/-- The words of an instruction with its parameter words (R48): the instruction word first. -/
def encodeWords (i : Instr) (params : List Word) : List Word := encode i :: params

/-- The 64-bit words, first word first, of an instruction given as a number of `nbits` bits whose bit 0 is the least
significant bit of the first word. Four words, the longest instruction (R61); bits above `nbits` are 0. Log entry 15. -/
def tableWords (nbits w : Nat) : List Word :=
  let v := w % 2 ^ nbits
  [BitVec.ofNat 64 v, BitVec.ofNat 64 (v / 2 ^ 64), BitVec.ofNat 64 (v / 2 ^ 128), BitVec.ofNat 64 (v / 2 ^ 192)]

/-- What the decoder reads, in this hardware's configuration (STRICT_UNUSED_MODES = false, R5), from an instruction
given as the bits of `w`. The first word alone selects the instruction (R61, R62). -/
def decodeTableWord (nbits w : Nat) : Option Instr :=
  match tableWords nbits w with
  | [] => none
  | v :: _ =>
    match decode false v with
    | .error _ => none
    | .ok i => some i

end Sys2Proof
end

