-- ==== Sys2Proof/Machine/State.lean ====
section
/-!
DEFINITION. The state of one core with the host at its I/O Bridge, as plain data (10_state R14 to R29), the state after
reset, and the reasons a step can stop.
-/

namespace Sys2Proof.Machine

/-- One listed memory word: its address and its value. The core has no bytes (20_memory R38), so a cell holds a whole
word; log entry 1. -/
abbrev Cell := Nat × Word

/-- `Mem` (20_memory R30) as the list of the words that are not 0, addresses strictly rising (`Memory.wf`). An address
that is not listed reads 0 (R31). -/
abbrev Memory := List Cell

/-- The run state (R19). -/
inductive Run where
  | running
  | halted
  | faulted
  deriving DecidableEq, Repr

/-- The fault record (R20). -/
structure FaultRecord where
  cause : Cause
  /-- `ip` at the faulting instruction -/
  faultIp : Nat
  /-- the integer the cause names (R103) -/
  info : Int
  deriving DecidableEq, Repr

/-- The I/O phase (R25): whether the readiness pulse of the input now executing has been given. -/
inductive IoPhase where
  | idle
  | pulseDone
  deriving DecidableEq, Repr

/-- The channel state of the I/O Bridge (R26). A field that does not exist in a configuration is false there; log
entry 11. -/
structure Chan where
  dataClosed : Bool
  readyClosed : Bool
  readySlot : Bool
  deriving DecidableEq, Repr

/-- The events of the trace (R90). -/
inductive Event where
  /-- READY: a readiness pulse was handed off (depth 0) or posted (depth 1) -/
  | ready
  /-- READY_TAKEN: the host took a buffered pulse (depth 1) -/
  | readyTaken
  /-- IN v -/
  | received (v : Word)
  /-- OUT v -/
  | sent (v : Word)
  /-- CLOSE -/
  | close
  deriving DecidableEq, Repr

/-- What the host does in one step (the interactions of R93). Log entry 4. -/
inductive HostMove where
  /-- nothing: it delays -/
  | delay
  /-- it receives on the data channel: takes an output, or reads the closed channel -/
  | recvData
  /-- it sends `v` on the data channel: gives an input -/
  | sendData (v : Word)
  /-- it receives on the readiness channel: takes a pulse, or reads the closed channel -/
  | recvReady
  /-- it keeps the protocol: takes a buffered pulse, else completes the hand-off the core offers -/
  | serve
  deriving DecidableEq, Repr

/-- What a host's read of a closed channel gives (R87). -/
inductive HostRead where
  /-- end-of-stream -/
  | eos
  /-- the pulse that was still buffered at close -/
  | pulse
  deriving DecidableEq, Repr

/-- The host as plain data: the MODEL's own state, not the spec's. Log entries 4 to 6 and 10. -/
structure HostSide where
  /-- the host's moves in the coming steps, oldest first -/
  schedule : List HostMove
  /-- its move in every step past the schedule -/
  rest : HostMove
  /-- the values a serving host gives next, oldest first; past them its values are free -/
  inputs : List Word
  /-- the count of steps, to which the free values are applied -/
  clock : Nat
  /-- whether the host has read the closed readiness channel -/
  readyRead : Bool
  /-- what its last read of a closed channel gave -/
  lastRead : Option HostRead
  deriving DecidableEq, Repr

/-- The state (R14): `Mem`, `ip`, `rb`, `run`, `fault`, `io_phase`, `chan`, with the event trace of R90, the read-only
configuration of R22 (log entry 2) and the host (log entry 4). -/
structure State where
  /-- the configuration, fixed at reset (R22) -/
  cfg : Config
  /-- `Mem` -/
  mem : Memory
  /-- `ip`: a non-negative integer that never wraps (R16, R17) -/
  ip : Nat
  /-- `rb` (R23) -/
  rb : Word
  run : Run
  fault : Option FaultRecord
  ioPhase : IoPhase
  chan : Chan
  /-- the event trace, in step order (R90) -/
  trace : List Event
  host : HostSide
  deriving DecidableEq, Repr

/-- Why there is no next state. A fault of the CORE is not one of these: it is the state `run = Faulted` with its
record, entered by a next state (R111). -/
inductive Fault where
  /-- `run = Halted` and the host makes no read now: the core has no step (R68). Raised by `step` only. Safe: it
  stops. Not a fault of the spec: a halt is never one (R19). Log entry 8. -/
  | coreHalted
  /-- `run = Faulted` and the host takes no pulse now: the core has no step (R68). Raised by `step` only. Safe: it
  stops. Log entry 8. -/
  | coreFaulted
  deriving DecidableEq, Repr

/-- Why an instruction has no meaning here. -/
inductive Refusal where
  /-- the instruction's meaning is not written. Raised by an arm of `exec`; no arm does. Safe: it stops. -/
  | notModelled (mnemonic : String)
  deriving DecidableEq, Repr

/-- The host after reset: nothing listed, it serves every hand-off, and the values it gives are free. DESIGN CHOICE,
unsafe, log entry 5. -/
def HostSide.reset : HostSide :=
  { schedule := [], rest := .serve, inputs := [], clock := 0, readyRead := false, lastRead := none }

/-- The machine right after reset (R29, R123, R124), with this hardware's configuration and the empty program image
(R122 "An empty image (`L = 0`) is legal"; log entry 14). -/
def State.reset : State :=
  { cfg := Config.standard
    mem := []
    ip := 0
    rb := 0
    run := .running
    fault := none
    ioPhase := .idle
    chan := { dataClosed := false, readyClosed := false, readySlot := false }
    trace := []
    host := HostSide.reset }

end Sys2Proof.Machine
end

