-- ==== Sys2Proof/Machine/Ops.lean ====
section
/-!
DEFINITION. The named operations over memory and registers (20_memory R30 to R34), entering a fault (60_exceptions R111),
and reset with a program image (70_reset_and_hazards R122, R123). There is no return from a fault (R112).
-/

namespace Sys2Proof.Machine

/-- `MemRead(a, 1)` of R31: the listed word, and 0 at an address that is not listed. -/
def Memory.read : Memory → Nat → Word
  | [], _ => 0
  | (b, v) :: m, a => if b = a then v else Memory.read m a

/-- The memory without the word listed at `a`. -/
def Memory.erase : Memory → Nat → Memory
  | [], _ => []
  | (b, v) :: m, a => if b = a then Memory.erase m a else (b, v) :: Memory.erase m a

/-- The memory with `v` listed at `a`, before the first greater address. -/
def Memory.insert : Memory → Nat → Word → Memory
  | [], a, v => [(a, v)]
  | (b, u) :: m, a, v => if a < b then (a, v) :: (b, u) :: m else (b, u) :: Memory.insert m a v

/-- `MemWrite(a, 1, v)` of R32, keeping the canonical form: a word of 0 is not listed. -/
def Memory.write (m : Memory) (a : Nat) (v : Word) : Memory :=
  if v = 0 then m.erase a else (m.erase a).insert a v

/-- The addresses of `m` are strictly rising, each above `lo`, and no listed word is 0. -/
def Memory.wfAbove : Nat → Memory → Bool
  | _, [] => true
  | lo, (b, v) :: m => decide (lo ≤ b) && (v != 0) && Memory.wfAbove (b + 1) m

/-- The canonical form of memory: addresses strictly rising, no listed word 0. -/
def Memory.wf (m : Memory) : Bool := Memory.wfAbove 0 m

/-- Every listed address is an address of R30, `0 <= a <= WORD_MAX`. -/
def Memory.inRange (m : Memory) : Bool := m.all (fun c => decide (c.1 ≤ addrMax))

/-- `words` placed at consecutive addresses from `a`; a word past WORD_MAX has no address and is dropped. -/
def Memory.place (m : Memory) : Nat → List Word → Memory
  | _, [] => m
  | a, w :: ws => if a ≤ addrMax then (m.write a w).place (a + 1) ws else m

/-- `MemRead` on the state (R31). -/
def State.load (s : State) (a : Nat) : Word := s.mem.read a

/-- `MemWrite` on the state (R32). -/
def State.store (s : State) (a : Nat) (v : Word) : State := { s with mem := s.mem.write a v }

/-- `ip <- t`. -/
def State.setIp (s : State) (t : Nat) : State := { s with ip := t }

/-- `ip <- ip + n`, exact (R17: `ip` does not wrap). -/
def State.advance (s : State) (n : Nat) : State := { s with ip := s.ip + n }

/-- `rb <- v` (R23). -/
def State.setBase (s : State) (v : Word) : State := { s with rb := v }

/-- `io_phase <- p` (R25). -/
def State.setPhase (s : State) (p : IoPhase) : State := { s with ioPhase := p }

/-- The event `e` is recorded (R90). -/
def State.record (s : State) (e : Event) : State := { s with trace := s.trace ++ [e] }

/-- An address is valid when it lies in `[0, WORD_MAX]` (R33). -/
def validAddress (a : Int) : Bool := decide (0 ≤ a) && decide (a ≤ wordMax)

/-- What `raise Fault(cause, info)` carries (R10). -/
structure Raised where
  cause : Cause
  info : Int
  deriving DecidableEq, Repr

/-- The check of R33: a valid address, as the number memory is read at, or INVALID_ADDRESS with the exact integer. -/
def checkAddress (a : Int) : Except Raised Nat :=
  if validAddress a then .ok a.toNat else .error { cause := .invalidAddress, info := a }

/-- The write limit of R34: CAPACITY_EXCEEDED at or above ADDR_LIMIT, where there is one. -/
def checkLimit (limit : Option Nat) (a : Nat) : Except Raised Nat :=
  match limit with
  | none => .ok a
  | some l => if a < l then .ok a else .error { cause := .capacityExceeded, info := a }

/-- The cause codes of R103. -/
def faultCode : Cause → Nat
  | .illegalOpcode => 1
  | .illegalMode => 2
  | .immediateDestination => 3
  | .invalidAddress => 4
  | .capacityExceeded => 5
  | .arithmeticOverflow => 6

/-- TAKING A FAULT (R111): the record is written with `ip` as it stands, which is the faulting instruction's address,
and the core is Faulted. Nothing else changes: no channel is closed and no event is recorded. -/
def State.raise (s : State) (r : Raised) : State :=
  { s with run := .faulted, fault := some { cause := r.cause, faultIp := s.ip, info := r.info } }

/-- How every instruction ends: with its effect, or with the fault it raised and no effect of its own (R75). Either
way there is a next state. -/
def settle (s : State) (effect : Except Raised State) : Host.Outcome State Fault Refusal :=
  match effect with
  | .ok t => .next t
  | .error r => .next (s.raise r)

/-- `reset(PROGRAM, configuration)` of R123: the reset state with the configuration, and the program image at the
addresses from 0 (R29, R40). -/
def State.resetWith (cfg : Config) (program : List Word) : State :=
  { State.reset with cfg := cfg, mem := Memory.place [] 0 program }

/-- The loader's last check (R122): a token outside `[WORD_MIN, WORD_MAX]` is rejected, and then there is no image. -/
def imageOfIntegers : List Int → Option (List Word)
  | [] => some []
  | x :: xs =>
    if decide (wordMin ≤ x) && decide (x ≤ wordMax) then
      match imageOfIntegers xs with
      | none => none
      | some ws => some (BitVec.ofInt 64 x :: ws)
    else none

end Sys2Proof.Machine
end

