-- ==== Sys2Proof/Machine/Flags.lean ====
section
/-!
DEFINITION. How results are made. The core has no flags (10_state R18), so no flag is computed here: `toWord` of R11 turns
an exact result into a word, and the comparisons give 1 or 0 (R98, R99).
-/

namespace Sys2Proof.Machine

/-- Whether the exact integer `x` is the value of a word (R7). -/
def inWordRange (x : Int) : Bool := decide (wordMin ≤ x) && decide (x ≤ wordMax)

/-- `toWord(x)` of R11 under OVERFLOW. -/
def toWord (o : Overflow) (x : Int) : Except Raised Word :=
  if inWordRange x then .ok (BitVec.ofInt 64 x)
  else
    match o with
    | .wrap => .ok (BitVec.ofInt 64 x)
    | .fault => .error { cause := .arithmeticOverflow, info := x }

/-- The result word of a comparison: 1 or 0 (R98, R99). -/
def truthWord (b : Bool) : Word := if b then 1 else 0

end Sys2Proof.Machine
end

