-- ==== Sys2Proof/Machine/Operands.lean ====
section
/-!
DEFINITION. The addressing-mode resolver (30_encoding R51 to R54, 40_execution_cycle R71): the value of a source parameter,
the address of a destination parameter, and the parameters of each format resolved in increasing order.
-/

namespace Sys2Proof.Machine

/-- `lit_k`: the parameter word at `ip + k`, whose address is checked first (R48, R53). -/
def paramWord (s : State) (k : Nat) : Except Raised Word :=
  if s.ip + k ≤ addrMax then .ok (s.load (s.ip + k))
  else .error { cause := .invalidAddress, info := ((s.ip + k : Nat) : Int) }

/-- `Src(k)` of R53. -/
def src (s : State) (m : Mode) (k : Nat) : Except Raised Word :=
  match paramWord s k with
  | .error r => .error r
  | .ok lit =>
    match m with
    | .position =>
      match checkAddress lit.toInt with
      | .error r => .error r
      | .ok a => .ok (s.load a)
    | .immediate => .ok lit
    | .relative =>
      match checkAddress (lit.toInt + s.rb.toInt) with
      | .error r => .error r
      | .ok a => .ok (s.load a)

/-- The end of `Dst(k)` of R54: the address check, then the write limit. -/
def destinationAddress (s : State) (a : Int) : Except Raised Nat :=
  match checkAddress a with
  | .error r => .error r
  | .ok a => checkLimit s.cfg.addrLimit a

/-- `Dst(k)` of R54. An immediate destination "cannot happen: decode has already raised IMMEDIATE_DESTINATION": on an
instruction that no word decodes to, that fault is raised here, with the word at `ip`. DESIGN CHOICE, log entry 13. -/
def dst (s : State) (m : Mode) (k : Nat) : Except Raised Nat :=
  match m with
  | .immediate => .error { cause := .immediateDestination, info := (s.load s.ip).toInt }
  | .position =>
    match paramWord s k with
    | .error r => .error r
    | .ok lit => destinationAddress s lit.toInt
  | .relative =>
    match paramWord s k with
    | .error r => .error r
    | .ok lit => destinationAddress s (lit.toInt + s.rb.toInt)

/-- Two source parameters in turn (format F2, R71): the first fault ends the instruction. -/
def sources (s : State) (m1 m2 : Mode) : Except Raised (Word × Word) :=
  match src s m1 1 with
  | .error r => .error r
  | .ok v1 =>
    match src s m2 2 with
    | .error r => .error r
    | .ok v2 => .ok (v1, v2)

/-- Two source parameters and then the destination (format F3, R71). -/
def sourcesAndDestination (s : State) (m1 m2 m3 : Mode) : Except Raised (Word × Word × Nat) :=
  match sources s m1 m2 with
  | .error r => .error r
  | .ok (v1, v2) =>
    match dst s m3 3 with
    | .error r => .error r
    | .ok a3 => .ok (v1, v2, a3)

end Sys2Proof.Machine
end

