-- ==== Sys2Proof/Machine/Arithmetic.lean ====
section
/-!
DEFINITION. The arithmetic instructions add and mul (41_arithmetic R78, R79, R80).
-/

namespace Sys2Proof.Machine

/-- The effect of a three-parameter arithmetic instruction: the exact result `f v_1 v_2` reduced by `toWord`, written to
the destination, and `ip` advanced by 4. Every read comes before the write (R74). -/
def arithmetic (f : Int → Int → Int) (s : State) (m1 m2 m3 : Mode) : Except Raised State :=
  match sourcesAndDestination s m1 m2 m3 with
  | .error r => .error r
  | .ok (v1, v2, a3) =>
    match toWord s.cfg.overflow (f v1.toInt v2.toInt) with
    | .error r => .error r
    | .ok r => .ok ((s.store a3 r).advance 4)

/-- add, R78. -/
def execAdd (m1 m2 m3 : Mode) (s : State) : Host.Outcome State Fault Refusal :=
  settle s (arithmetic (fun x y => x + y) s m1 m2 m3)

/-- mul, R79. -/
def execMul (m1 m2 m3 : Mode) (s : State) : Host.Outcome State Fault Refusal :=
  settle s (arithmetic (fun x y => x * y) s m1 m2 m3)

end Sys2Proof.Machine
end

