-- ==== Sys2Proof/Machine/Bridge.lean ====
section
/-!
DEFINITION. The I/O Bridge (42_io R81 to R90) and the host beside it (R93): the host's move in this step, the hand-offs
`Pulse()`, `Recv()`, `Send(v)`, the action `CloseAll()`, and the host's own steps. A hand-off that the host does not
complete in this step leaves the core as it is: it waits (40_execution_cycle R76).
-/

namespace Sys2Proof.Machine

/-- The host's move in this step: the first of its schedule, or what it does past the schedule. -/
def hostMove (h : HostSide) : HostMove :=
  match h.schedule with
  | [] => h.rest
  | m :: _ => m

/-- The end of a step for the host: its move is used up and the count of steps goes on. -/
def tickHost (h : HostSide) : HostSide := { h with schedule := h.schedule.tail, clock := h.clock + 1 }

/-- One step has passed. -/
def tick (s : State) : State := { s with host := tickHost s.host }

/-- Whether the host takes an output in this step (R93 "take output"). -/
def takesOutput (h : HostSide) : Bool :=
  match hostMove h with
  | .recvData => true
  | .serve => true
  | .delay => false
  | .sendData _ => false
  | .recvReady => false

/-- Whether the host accepts a readiness pulse at depth 0 in this step (R93 "take pulse (depth 0)"). -/
def takesPulse (h : HostSide) : Bool :=
  match hostMove h with
  | .recvReady => true
  | .serve => true
  | .delay => false
  | .recvData => false
  | .sendData _ => false

/-- The value the host gives in this step, if it gives one (R93 "give input": any word), and the host after it. A
serving host gives the next of its listed values, and past them a FREE VALUE (log entry 6). -/
def givesInput (h : HostSide) : Option (Word × HostSide) :=
  match hostMove h with
  | .sendData v => some (v, h)
  | .serve =>
    match h.inputs with
    | [] => some (Config.hostWord h.clock, h)
    | v :: vs => some (v, { h with inputs := vs })
  | .delay => none
  | .recvData => none
  | .recvReady => none

/-- `Pulse()` of R85, at either depth. Depth 0: a joint step, enabled when the host accepts the pulse. Depth 1: a post
step, enabled when the buffer is empty. Where it is not enabled, the core waits. -/
def pulse (s : State) : State :=
  match s.cfg.readyDepth with
  | .zero => if takesPulse s.host then (s.record .ready).setPhase .pulseDone else s
  | .one =>
    if s.chan.readySlot then s
    else { (s.record .ready).setPhase .pulseDone with chan := { s.chan with readySlot := true } }

/-- `Recv()` of R83: enabled when the data channel is open and the host gives a value; IN v is recorded. The value and
the state after the hand-off. -/
def recv (s : State) : Option (Word × State) :=
  if s.chan.dataClosed then none
  else
    match givesInput s.host with
    | none => none
    | some (v, h) => some (v, { s.record (.received v) with host := h })

/-- `Send(v)` of R84: enabled when the host takes the value; OUT v is recorded. -/
def send (s : State) (v : Word) : Option State :=
  if takesOutput s.host then some (s.record (.sent v)) else none

/-- `CloseAll()` of R86. -/
def closeAll (s : State) : State :=
  { s.record .close with
    chan := { s.chan with dataClosed := true, readyClosed := s.chan.readyClosed || s.cfg.interactive } }

/-- The host's step that takes a buffered pulse (R85, depth 1). -/
def takeBufferedPulse (s : State) : State :=
  { s.record .readyTaken with chan := { s.chan with readySlot := false } }

/-- The host's read of the closed data channel: EOS, and no core state changes (R87). -/
def readClosedData (s : State) : State := { s with host := { s.host with lastRead := some .eos } }

/-- The host's read of the closed readiness channel (R87): EOS, but that the first read of a channel whose buffer still
holds a pulse gives that pulse or not, as a draw decides. The channel state does not change. Log entry 10. -/
def readClosedReady (s : State) : State :=
  if s.chan.readySlot && !s.host.readyRead && Config.pulseDelivered s.host.clock then
    { s.record .readyTaken with host := { s.host with lastRead := some .pulse, readyRead := true } }
  else { s with host := { s.host with lastRead := some .eos, readyRead := true } }

/-- The step of the host alone that its move makes now, if the move is one and it is enabled (R67 item 4): taking a
buffered pulse, or reading a closed channel. -/
def hostStep (s : State) : Option State :=
  match hostMove s.host with
  | .recvData => if s.chan.dataClosed then some (readClosedData s) else none
  | .recvReady =>
    if s.chan.readyClosed then some (readClosedReady s)
    else if s.chan.readySlot then some (takeBufferedPulse s)
    else none
  | .serve => if s.chan.readySlot && !s.chan.readyClosed then some (takeBufferedPulse s) else none
  | .delay => none
  | .sendData _ => none

end Sys2Proof.Machine
end

