-- ==== Sys2Proof/Machine/BaseAndHalt.lean ====
section
/-!
DEFINITION. adjust-base and halt (45_base_and_halt R100, R101).
-/

namespace Sys2Proof.Machine

/-- The effect of adjust-base: `rb <- toWord(rb + v_1)`, the operand read with the old `rb`, and `ip` advanced by 2. -/
def adjustBaseEffect (s : State) (m1 : Mode) : Except Raised State :=
  match src s m1 1 with
  | .error r => .error r
  | .ok v1 =>
    match toWord s.cfg.overflow (s.rb.toInt + v1.toInt) with
    | .error r => .error r
    | .ok b => .ok ((s.setBase b).advance 2)

/-- adjust-base, R100. -/
def execAdjustBase (m1 : Mode) (s : State) : Host.Outcome State Fault Refusal := settle s (adjustBaseEffect s m1)

/-- halt, R101: the channels are closed and the core is Halted; `ip`, `rb` and `Mem` are unchanged. -/
def execHalt (s : State) : Host.Outcome State Fault Refusal := .next { closeAll s with run := .halted }

end Sys2Proof.Machine
end

