-- ==== Sys2Proof/Machine/Compare.lean ====
section
/-!
DEFINITION. The comparison instructions less-than and equals (44_compare R98, R99).
-/

namespace Sys2Proof.Machine

/-- The effect of a comparison: 1 or 0 written to the destination, and `ip` advanced by 4. It cannot overflow. -/
def comparison (p : Int → Int → Bool) (s : State) (m1 m2 m3 : Mode) : Except Raised State :=
  match sourcesAndDestination s m1 m2 m3 with
  | .error r => .error r
  | .ok (v1, v2, a3) => .ok ((s.store a3 (truthWord (p v1.toInt v2.toInt))).advance 4)

/-- less-than, R98: the comparison is signed. -/
def execLessThan (m1 m2 m3 : Mode) (s : State) : Host.Outcome State Fault Refusal :=
  settle s (comparison (fun x y => decide (x < y)) s m1 m2 m3)

/-- equals, R99. -/
def execEquals (m1 m2 m3 : Mode) (s : State) : Host.Outcome State Fault Refusal :=
  settle s (comparison (fun x y => decide (x = y)) s m1 m2 m3)

end Sys2Proof.Machine
end

