-- ==== Sys2Proof/Machine/ControlTransfer.lean ====
section
/-!
DEFINITION. Control transfer: jump-if-true and jump-if-false (43_control_transfer R95, R96, R97).
-/

namespace Sys2Proof.Machine

/-- The effect of a jump that is taken when `taken v_1`. Both parameters are resolved either way (R71). A taken jump to
a negative target faults at the jump (R95); a target that is not taken is not checked. -/
def jump (taken : Word → Bool) (s : State) (m1 m2 : Mode) : Except Raised State :=
  match sources s m1 m2 with
  | .error r => .error r
  | .ok (v1, v2) =>
    if taken v1 then
      if v2.toInt < 0 then .error { cause := .invalidAddress, info := v2.toInt }
      else .ok (s.setIp v2.toInt.toNat)
    else .ok (s.advance 3)

/-- jump-if-true, R96. -/
def execJumpIfTrue (m1 m2 : Mode) (s : State) : Host.Outcome State Fault Refusal :=
  settle s (jump (fun v => v != 0) s m1 m2)

/-- jump-if-false, R97. -/
def execJumpIfFalse (m1 m2 : Mode) (s : State) : Host.Outcome State Fault Refusal :=
  settle s (jump (fun v => v == 0) s m1 m2)

end Sys2Proof.Machine
end

