-- ==== Sys2Proof/Machine/InputOutput.lean ====
section
/-!
DEFINITION. The I/O instructions input and output (42_io R91, R92). Every fault is raised before the first hand-off (R73,
R75). While the host does not complete the hand-off, the instruction leaves the state as it is (R76), and the next
step offers the hand-off again.
-/

namespace Sys2Proof.Machine

/-- The receive of an input whose destination is `a1` (R91, the else branch). -/
def receiveInto (s : State) (a1 : Nat) : State :=
  match recv s with
  | none => s
  | some (v, t) => ((t.store a1 v).setPhase .idle).advance 2

/-- The effect of input: under INTERACTIVE the readiness pulse first, as a step of its own; then the receive (R91). -/
def inputEffect (s : State) (m1 : Mode) : Except Raised State :=
  match dst s m1 1 with
  | .error r => .error r
  | .ok a1 =>
    if s.cfg.interactive && (s.ioPhase == .idle) then .ok (pulse s)
    else .ok (receiveInto s a1)

/-- input, R91. -/
def execInput (m1 : Mode) (s : State) : Host.Outcome State Fault Refusal := settle s (inputEffect s m1)

/-- The effect of output: the value read at resolve time is sent, and `ip` advances by 2 when the host takes it (R92). -/
def outputEffect (s : State) (m1 : Mode) : Except Raised State :=
  match src s m1 1 with
  | .error r => .error r
  | .ok v1 =>
    match send s v1 with
    | none => .ok s
    | some t => .ok (t.advance 2)

/-- output, R92. -/
def execOutput (m1 : Mode) (s : State) : Host.Outcome State Fault Refusal := settle s (outputEffect s m1)

end Sys2Proof.Machine
end

