-- ==== Sys2Proof/Machine/Fetch.lean ====
section
/-!
DEFINITION. Fetch and decode (40_execution_cycle R69, R70), what a stopped core answers (R68), the hand-off the core offers
(42_io R82, R93), the status outputs (10_state R21), and where an instruction's words are placed for the next fetch.
-/

namespace Sys2Proof.Machine

/-- Fetch and decode: an `ip` above WORD_MAX raises INVALID_ADDRESS, an illegal word raises its cause with the word. -/
def fetch (s : State) : Except Raised Instr :=
  if s.ip ≤ addrMax then
    match decode s.cfg.strictUnusedModes (s.load s.ip) with
    | .error c => .error { cause := c, info := (s.load s.ip).toInt }
    | .ok i => .ok i
  else .error { cause := .invalidAddress, info := (s.ip : Int) }

/-- Why a core that is not Running has no step (R68). -/
def stopped (s : State) : Option Fault :=
  match s.run with
  | .running => none
  | .halted => some .coreHalted
  | .faulted => some .coreFaulted

/-- The words of an instruction placed at the instruction pointer, where the next step fetches. -/
def placeWords (s : State) (words : List Word) : State := { s with mem := s.mem.place s.ip words }

/-- A hand-off that the core offers (R82: at most one at any moment). -/
inductive Offer where
  /-- the core sends `v` -/
  | send (v : Word)
  /-- the core is ready to receive, and writes to address `a` -/
  | recv (a : Nat)
  /-- the core gives a readiness pulse (depth 0), or posts one (depth 1) -/
  | pulse
  deriving DecidableEq, Repr

/-- The hand-off the core offers now, if any: only a Running core at an input or output that has passed fetch, decode
and resolve offers one (R76, R93). -/
def offer (s : State) : Option Offer :=
  match s.run with
  | .halted => none
  | .faulted => none
  | .running =>
    match fetch s with
    | .error _ => none
    | .ok (.input m1) =>
      match dst s m1 1 with
      | .error _ => none
      | .ok a1 => if s.cfg.interactive && (s.ioPhase == .idle) then some .pulse else some (.recv a1)
    | .ok (.output m1) =>
      match src s m1 1 with
      | .error _ => none
      | .ok v1 => some (.send v1)
    | .ok _ => none

/-- The status outputs, which the host may observe at any time (R21). -/
def status (s : State) : Run × Option FaultRecord := (s.run, s.fault)

end Sys2Proof.Machine
end

