-- ==== Sys2Proof/Machine/Step.lean ====
section
/-!
DEFINITION. One step of the system of core and host (40_execution_cycle R67), and the placing of an instruction where the next
step fetches it.
-/

namespace Sys2Proof.Machine

/-- One step. If the host's move is an enabled step of the host alone, it is that step (R67 item 4). Otherwise the core
moves: a stopped core has no step (R68), and a Running one fetches, decodes and executes one instruction, or enters
the fault that fetch or decode raises (R69, R70, R72). The host's move of this step is then used up. -/
def step (s : State) : Host.Outcome State Fault Refusal :=
  match hostStep s with
  | some t => .next (tick t)
  | none =>
    match stopped s with
    | some f => .fault f
    | none =>
      match fetch s with
      | .error r => .next (tick (s.raise r))
      | .ok i =>
        match exec i s with
        | .next t => .next (tick t)
        | .fault f => .fault f
        | .refused r => .refused r

/-- `s` with the instruction whose bits are `w` (see `tableWords`) stored at `ip`, where `step` fetches. Nothing else
changes. Log entry 14. -/
def State.withFetchWord (s : State) (nbits w : Nat) : State := placeWords s (tableWords nbits w)

end Sys2Proof.Machine
end

