-- ==== Sys2Proof/Machine/Assembler.lean ====
section
/-!
DEFINITION. The assembler notation of the spec's examples (30_encoding R64): statements, their text, and the words they stand
for. There are no pseudo-instructions (R65): a statement is one machine instruction, a `.word` directive or a label. What R64
leaves open of the notation is the model's choice, log entry 22.
-/

namespace Sys2Proof.Machine

/-- A number of the notation: a signed integer, or a label, which stands for the address of the word after it. -/
inductive Num where
  | int (n : Int)
  | label (name : String)
  deriving DecidableEq, Repr

/-- An operand (R64). -/
inductive Operand where
  /-- `[n]` -/
  | position (n : Num)
  /-- `#n` -/
  | immediate (n : Num)
  /-- `[rb+n]` -/
  | basePlus (n : Num)
  /-- `[rb-n]` -/
  | baseMinus (n : Num)
  deriving DecidableEq, Repr

/-- The mode of an operand. -/
def Operand.mode : Operand → Mode
  | .position _ => .position
  | .immediate _ => .immediate
  | .basePlus _ => .relative
  | .baseMinus _ => .relative

/-- A statement of the notation. -/
inductive Statement where
  | add (p1 p2 p3 : Operand)
  | mul (p1 p2 p3 : Operand)
  | input (p1 : Operand)
  | output (p1 : Operand)
  | jumpIfTrue (p1 p2 : Operand)
  | jumpIfFalse (p1 p2 : Operand)
  | lessThan (p1 p2 p3 : Operand)
  | equals (p1 p2 p3 : Operand)
  | adjustBase (p1 : Operand)
  | halt
  /-- `.word v1, v2, ...` -/
  | words (vs : List Num)
  /-- `name:` -/
  | label (name : String)
  deriving DecidableEq, Repr

/-- The mnemonics (R64). -/
def mnemonic : Instr → String
  | .add _ _ _ => "add"
  | .mul _ _ _ => "mul"
  | .input _ => "input"
  | .output _ => "output"
  | .jumpIfTrue _ _ => "jump-if-true"
  | .jumpIfFalse _ _ => "jump-if-false"
  | .lessThan _ _ _ => "less-than"
  | .equals _ _ _ => "equals"
  | .adjustBase _ => "adjust-base"
  | .halt => "halt"

/-- The instruction of a statement with its operands in parameter order, where it is one. -/
def Statement.instr : Statement → Option (Instr × List Operand)
  | .add p1 p2 p3 => some (.add p1.mode p2.mode p3.mode, [p1, p2, p3])
  | .mul p1 p2 p3 => some (.mul p1.mode p2.mode p3.mode, [p1, p2, p3])
  | .input p1 => some (.input p1.mode, [p1])
  | .output p1 => some (.output p1.mode, [p1])
  | .jumpIfTrue p1 p2 => some (.jumpIfTrue p1.mode p2.mode, [p1, p2])
  | .jumpIfFalse p1 p2 => some (.jumpIfFalse p1.mode p2.mode, [p1, p2])
  | .lessThan p1 p2 p3 => some (.lessThan p1.mode p2.mode p3.mode, [p1, p2, p3])
  | .equals p1 p2 p3 => some (.equals p1.mode p2.mode p3.mode, [p1, p2, p3])
  | .adjustBase p1 => some (.adjustBase p1.mode, [p1])
  | .halt => some (.halt, [])
  | .words _ => none
  | .label _ => none

/-- How many words a statement stands for. -/
def Statement.size : Statement → Nat
  | .words vs => vs.length
  | .label _ => 0
  | st =>
    match st.instr with
    | none => 0
    | some (i, _) => i.width

/-- The definitions of labels in a program that begins at address `a`, in program order, each with the address of the next
word. -/
def labels : Nat → List Statement → List (String × Nat)
  | _, [] => []
  | a, .label n :: sts => (n, a) :: labels a sts
  | a, st :: sts => labels (a + st.size) sts

/-- The integer of a number, by the program's labels. DESIGN CHOICE, log entry 22: R64 does not say what a label stands for
that is defined twice, or that is used and never defined; the first definition counts, and a number whose label has none is
rejected. -/
def Num.value (ls : List (String × Nat)) : Num → Option Int
  | .int n => some n
  | .label l =>
    match ls.lookup l with
    | none => none
    | some a => some (a : Int)

/-- The literal of an operand: `n`, or `-n` for `[rb-n]` (R64). -/
def Operand.literal (ls : List (String × Nat)) : Operand → Option Int
  | .position n => n.value ls
  | .immediate n => n.value ls
  | .basePlus n => n.value ls
  | .baseMinus n => (n.value ls).map Neg.neg

/-- The word of an integer. DESIGN CHOICE, log entry 22: an integer outside the word range is rejected, as R122 says of the
loader. -/
def literalWord (x : Int) : Option Word := if wordMin ≤ x ∧ x ≤ wordMax then some (BitVec.ofInt 64 x) else none

/-- The words of one statement. DESIGN CHOICE, log entry 22: an instruction with an immediate destination, whose word R58
makes a decode fault, is rejected. -/
def Statement.assemble (ls : List (String × Nat)) (st : Statement) : Option (List Word) :=
  match st with
  | .words vs => vs.mapM (fun v => (v.value ls).bind literalWord)
  | .label _ => some []
  | st =>
    match st.instr with
    | none => none
    | some (i, ps) =>
      if i.wellFormed then
        match ps.mapM (fun p => (p.literal ls).bind literalWord) with
        | none => none
        | some ws => some (encodeWords i ws)
      else none

/-- The words of a program, an image, whose first word is at address 0 (R29); none where a statement is rejected. -/
def assemble (sts : List Statement) : Option (List Word) :=
  match sts.mapM (Statement.assemble (labels 0 sts)) with
  | none => none
  | some wss => some wss.flatten

/-- The text of a number. -/
def Num.text : Num → String
  | .int n => toString n
  | .label l => l

/-- The text of an operand (R64). -/
def Operand.text : Operand → String
  | .position n => "[" ++ n.text ++ "]"
  | .immediate n => "#" ++ n.text
  | .basePlus n => "[rb+" ++ n.text ++ "]"
  | .baseMinus n => "[rb-" ++ n.text ++ "]"

/-- The text of a statement: `mnemonic op1, op2, op3`, `.word v1, v2`, `name:` (R64). -/
def Statement.text (st : Statement) : String :=
  match st with
  | .words vs => ".word " ++ String.intercalate ", " (vs.map Num.text)
  | .label l => l ++ ":"
  | st =>
    match st.instr with
    | none => ""
    | some (i, []) => mnemonic i
    | some (i, ps) => mnemonic i ++ " " ++ String.intercalate ", " (ps.map Operand.text)

end Sys2Proof.Machine
end

