-- ==== Sys2Proof/Safety.lean ====
section
/-!
DEFINITION. The words that claims use: finished and safe runs (40_execution_cycle R77), entering a fault (60_exceptions R111), what
an instruction leaves unchanged, the first fault of resolving (R73), and the invariants of the machine.
-/

namespace Sys2Proof.Machine

/-- A run is finished when `run = Halted` (R77). -/
def Finished (s : State) : Prop := s.run = .halted

/-- A state is safe while the core is not Faulted. A well-formed program (R13) keeps it so. -/
def Safe (s : State) : Prop := s.run ≠ .faulted

/-- The core waits for the host: it offers a hand-off (R76). -/
def Waiting (s : State) : Prop := (offer s).isSome = true

/-- Every word of memory reads as before. -/
def SameMemory (s t : State) : Prop := ∀ b, t.load b = s.load b

/-- Every word of memory but the one at `a` reads as before. -/
def SameMemoryBut (a : Nat) (s t : State) : Prop := ∀ b, b ≠ a → t.load b = s.load b

/-- The I/O state is as before: the phase, the channels, the event trace and the host. -/
def SameIo (s t : State) : Prop :=
  t.ioPhase = s.ioPhase ∧ t.chan = s.chan ∧ t.trace = s.trace ∧ t.host = s.host

/-- The status is as before: the run state and the fault record, and the configuration with them. -/
def SameStatus (s t : State) : Prop := t.run = s.run ∧ t.fault = s.fault ∧ t.cfg = s.cfg

/-- `t` is `s` after `raise Fault(c, x)`: the record and the run state, and nothing else (R111, R75). -/
def EntersFault (s t : State) (r : Raised) : Prop :=
  t.run = .faulted ∧ t.fault = some { cause := r.cause, faultIp := s.ip, info := r.info } ∧
  t.mem = s.mem ∧ t.ip = s.ip ∧ t.rb = s.rb ∧ t.cfg = s.cfg ∧ SameIo s t

/-- The instruction ends in the fault `r`: a next state that enters it. -/
def ExecFaults (i : Instr) (s : State) (r : Raised) : Prop := ∃ t, exec i s = .next t ∧ EntersFault s t r

/-- The instruction completes by writing `v` to address `a` and advancing `ip` by 4, and changes nothing else. -/
def ExecWrites (i : Instr) (s : State) (a : Nat) (v : Word) : Prop :=
  ∃ t, exec i s = .next t ∧ t.load a = v ∧ SameMemoryBut a s t ∧ t.ip = s.ip + 4 ∧ t.rb = s.rb ∧
    SameStatus s t ∧ SameIo s t

/-- The instruction completes with `ip = target`, and changes nothing else. -/
def ExecMovesTo (i : Instr) (s : State) (target : Nat) : Prop :=
  ∃ t, exec i s = .next t ∧ t.ip = target ∧ t.rb = s.rb ∧ SameMemory s t ∧ SameStatus s t ∧ SameIo s t

/-- `r` is the first fault of resolving two source parameters (R71, R73 item 5). -/
def FirstFaultSS (s : State) (m1 m2 : Mode) (r : Raised) : Prop :=
  src s m1 1 = .error r ∨ (∃ v1, src s m1 1 = .ok v1 ∧ src s m2 2 = .error r)

/-- `r` is the first fault of resolving two source parameters and a destination (R71, R73 item 5). -/
def FirstFaultSSD (s : State) (m1 m2 m3 : Mode) (r : Raised) : Prop :=
  FirstFaultSS s m1 m2 r ∨ (∃ v1 v2, src s m1 1 = .ok v1 ∧ src s m2 2 = .ok v2 ∧ dst s m3 3 = .error r)

/-- The parameters of format F3 resolve to `v1`, `v2` and the address `a`. -/
def ResolvesSSD (s : State) (m1 m2 m3 : Mode) (v1 v2 : Word) (a : Nat) : Prop :=
  src s m1 1 = .ok v1 ∧ src s m2 2 = .ok v2 ∧ dst s m3 3 = .ok a

/-- A form of `op` (add or mul) completes at `s` under OVERFLOW = wrap: its sources resolve to `v1` and `v2`, and the word
it leaves at its destination is `r` (R80). -/
def WrapGives (op : Mode → Mode → Mode → Instr) (s : State) (v1 v2 r : Word) : Prop :=
  s.cfg.overflow = .wrap ∧ ∃ m1 m2 m3 a t, ResolvesSSD s m1 m2 m3 v1 v2 a ∧ exec (op m1 m2 m3) s = .next t ∧ t.load a = r

/-- `NPARAMS` of R62, with `DEST` beside it: the parameter count of an opcode and the index of its destination. -/
def paramTable : Nat → Option (Nat × Option Nat)
  | 1 => some (3, some 3)
  | 2 => some (3, some 3)
  | 3 => some (1, some 1)
  | 4 => some (1, none)
  | 5 => some (2, none)
  | 6 => some (2, none)
  | 7 => some (3, some 3)
  | 8 => some (3, some 3)
  | 9 => some (1, none)
  | 99 => some (0, none)
  | _ => none

/-- The mode digit of parameter `k` of the word `v` passes both checks of R58, for a destination parameter `d`. -/
def ModePasses (v : Nat) (d : Option Nat) (k : Nat) : Prop :=
  digit v (k + 1) ≤ 2 ∧ ¬ (d = some k ∧ digit v (k + 1) = 1)

/-- How many `IN` events a trace holds. -/
def receivedCount : List Event → Nat
  | [] => 0
  | .received _ :: es => receivedCount es + 1
  | .ready :: es => receivedCount es
  | .readyTaken :: es => receivedCount es
  | .sent _ :: es => receivedCount es
  | .close :: es => receivedCount es

/-- How many CLOSE events a core in a run state has recorded: one exactly when it is Halted (R86). -/
def closesOf : Run → Nat
  | .running => 0
  | .halted => 1
  | .faulted => 0

/-- How many pulses of an input that has not yet received stand in the trace: one while `io_phase` is PulseDone (R25). -/
def pulsesOf : IoPhase → Nat
  | .idle => 0
  | .pulseDone => 1

/-- INVARIANT: memory is in its canonical form and lists only addresses of R30. -/
def MemoryCanonical (s : State) : Prop := s.mem.wf = true ∧ s.mem.inRange = true

/-- INVARIANT (R20): there is a fault record exactly when the core is Faulted, and it names the address `ip` still has. -/
def FaultRecorded (s : State) : Prop :=
  (s.fault.isSome = true ↔ s.run = .faulted) ∧ (∀ f, s.fault = some f → f.faultIp = s.ip)

/-- INVARIANT (R26, R86, R111): the channels are closed exactly when the core is Halted, and the readiness channel and
its buffer are false where they do not exist. -/
def ChannelsTrackRun (s : State) : Prop :=
  (s.chan.dataClosed = true ↔ s.run = .halted) ∧
  (s.chan.readyClosed = true ↔ s.run = .halted ∧ s.cfg.interactive = true) ∧
  (s.chan.readySlot = true → s.cfg.interactive = true ∧ s.cfg.readyDepth = .one)

/-- INVARIANT (R86 "records the event `CLOSE` once"): CLOSE stands once in the trace of a Halted core, and in no other. -/
def ClosedOnce (s : State) : Prop := s.trace.count .close = closesOf s.run

/-- INVARIANT (R25): `io_phase` is PulseDone only while a Running core under INTERACTIVE is at an input whose
destination resolves. -/
def PulsePending (s : State) : Prop :=
  s.ioPhase = .pulseDone →
    s.run = .running ∧ s.cfg.interactive = true ∧ ∃ m1 a1, fetch s = .ok (.input m1) ∧ dst s m1 1 = .ok a1

/-- INVARIANT (R25 "sent once per input instruction, strictly before the value is consumed"): under INTERACTIVE the
trace has one READY for each IN, and one more while `io_phase` is PulseDone; without it there is no READY. -/
def PulsePerInput (s : State) : Prop :=
  (s.cfg.interactive = true → s.trace.count .ready = receivedCount s.trace + pulsesOf s.ioPhase) ∧
  (s.cfg.interactive = false → s.trace.count .ready = 0)

/-- All the invariants together. -/
def MachineInv (s : State) : Prop :=
  MemoryCanonical s ∧ FaultRecorded s ∧ ChannelsTrackRun s ∧ ClosedOnce s ∧ PulsePending s ∧ PulsePerInput s

end Sys2Proof.Machine
end

