-- ==== Sys2Proof/Certificates/Slice0/Obligations.lean ====
section
/-!
DEFINITION. The statements for the provers. Each docstring names the rule of spec/ it formalises, and the log entry where a
clause is the model's own choice.
-/

open Sys2Proof Sys2Proof.Machine

/-! ### encoding and decoding -/

/-- R62, R63: decoding the word of a well-formed instruction gives it back, with and without STRICT_UNUSED_MODES. -/
def Obligations.EncodedWordDecodesToItself : Prop :=
  ∀ (i : Instr) (strict : Bool), i.wellFormed = true → decode strict (encode i) = .ok i

/-- R62, R49, R56, R59: a word decodes to `i` exactly when it is non-negative, its low two digits are the opcode, the
digit of each parameter is the parameter's mode, no destination is immediate, and (strict) the other digits are 0. -/
def Obligations.DecodeAcceptsExactlyLegalWords : Prop :=
  ∀ (strict : Bool) (w : Word) (i : Instr), decode strict w = .ok i ↔
    0 ≤ w.toInt ∧ w.toNat % 100 = i.opcode ∧ i.wellFormed = true ∧
    (∀ k m, i.modes[k]? = some m → digit w.toNat (k + 2) = m.digit) ∧
    (strict = true → w.toNat / 10 ^ (i.modes.length + 2) = 0)

/-- R57: the illegal opcodes are exactly the negative words and the words whose low two digits are no opcode, and they
raise ILLEGAL_OPCODE with the word. -/
def Obligations.IllegalOpcodeRaisedExactly : Prop :=
  ∀ s : State, s.ip ≤ addrMax →
    (fetch s = .error { cause := .illegalOpcode, info := (s.load s.ip).toInt } ↔
      ((s.load s.ip).toInt < 0 ∨ (s.load s.ip).toNat % 100 ∉ [1, 2, 3, 4, 5, 6, 7, 8, 9, 99]))

/-- R58: the mode digits are checked in parameter order, each for a digit above 2 and then, on a destination, for 1. -/
def Obligations.ModeDigitsCheckedInOrder : Prop :=
  ∀ (s : State) (n : Nat) (d : Option Nat) (k : Nat), s.ip ≤ addrMax → 0 ≤ (s.load s.ip).toInt →
    paramTable ((s.load s.ip).toNat % 100) = some (n, d) → 1 ≤ k → k ≤ n →
    (∀ j, 1 ≤ j → j < k → ModePasses (s.load s.ip).toNat d j) →
    (2 < digit (s.load s.ip).toNat (k + 1) →
      fetch s = .error { cause := .illegalMode, info := (s.load s.ip).toInt }) ∧
    (d = some k → digit (s.load s.ip).toNat (k + 1) = 1 →
      fetch s = .error { cause := .immediateDestination, info := (s.load s.ip).toInt })

/-- R59: without STRICT_UNUSED_MODES the digits above the parameters' are ignored; with it, a word that passes every
other check raises ILLEGAL_MODE when one of them is not 0, and every other outcome is as without it. -/
def Obligations.UnusedDigitsIgnoredUnlessStrict : Prop :=
  (∀ (w w' : Word) (n : Nat) (d : Option Nat), 0 ≤ w.toInt → 0 ≤ w'.toInt →
    paramTable (w.toNat % 100) = some (n, d) → w.toNat % 10 ^ (n + 2) = w'.toNat % 10 ^ (n + 2) →
    decode false w = decode false w') ∧
  (∀ s : State, s.cfg.strictUnusedModes = true → s.ip ≤ addrMax →
    (∀ i, decode false (s.load s.ip) = .ok i → (s.load s.ip).toNat / 10 ^ (i.modes.length + 2) ≠ 0 →
      fetch s = .error { cause := .illegalMode, info := (s.load s.ip).toInt }) ∧
    (∀ i, decode false (s.load s.ip) = .ok i → (s.load s.ip).toNat / 10 ^ (i.modes.length + 2) = 0 →
      fetch s = .ok i) ∧
    (∀ c, decode false (s.load s.ip) = .error c →
      fetch s = .error { cause := c, info := (s.load s.ip).toInt })) ∧
  decode false 1104 = .ok (.output .immediate) ∧ decode false 199 = .ok .halt

/-- R60: every word decodes to a legal instruction or to one of the three decode faults. -/
def Obligations.EveryWordDecodesOrFaults : Prop :=
  ∀ (strict : Bool) (w : Word),
    (∃ i, decode strict w = .ok i ∧ i.wellFormed = true) ∨ decode strict w = .error .illegalOpcode ∨
    decode strict w = .error .illegalMode ∨ decode strict w = .error .immediateDestination

/-- R63: the formula of an instruction's word, and the eight worked encodings. -/
def Obligations.WordsFollowTheDigitFormula : Prop :=
  (∀ m1 m2 m3, (encode (.add m1 m2 m3)).toNat = 1 + 100 * m1.digit + 1000 * m2.digit + 10000 * m3.digit) ∧
  (∀ m1 m2 m3, (encode (.mul m1 m2 m3)).toNat = 2 + 100 * m1.digit + 1000 * m2.digit + 10000 * m3.digit) ∧
  (∀ m1, (encode (.input m1)).toNat = 3 + 100 * m1.digit) ∧
  (∀ m1, (encode (.output m1)).toNat = 4 + 100 * m1.digit) ∧
  (∀ m1 m2, (encode (.jumpIfTrue m1 m2)).toNat = 5 + 100 * m1.digit + 1000 * m2.digit) ∧
  (∀ m1 m2, (encode (.jumpIfFalse m1 m2)).toNat = 6 + 100 * m1.digit + 1000 * m2.digit) ∧
  (∀ m1 m2 m3, (encode (.lessThan m1 m2 m3)).toNat = 7 + 100 * m1.digit + 1000 * m2.digit + 10000 * m3.digit) ∧
  (∀ m1 m2 m3, (encode (.equals m1 m2 m3)).toNat = 8 + 100 * m1.digit + 1000 * m2.digit + 10000 * m3.digit) ∧
  (∀ m1, (encode (.adjustBase m1)).toNat = 9 + 100 * m1.digit) ∧
  (encode .halt).toNat = 99 ∧
  decode false 1002 = .ok (.mul .position .immediate .position) ∧
  decode false 1101 = .ok (.add .immediate .immediate .position) ∧
  decode false 109 = .ok (.adjustBase .immediate) ∧
  decode false 204 = .ok (.output .relative) ∧
  decode false 1001 = .ok (.add .position .immediate .position) ∧
  decode false 1008 = .ok (.equals .position .immediate .position) ∧
  decode false 1006 = .ok (.jumpIfFalse .position .immediate) ∧
  decode false 21101 = .ok (.add .immediate .immediate .relative)

/-! ### resolving parameters -/

/-- R53: `Src(k)` in each mode, with its address checks. -/
def Obligations.SourceParameterValue : Prop :=
  ∀ (s : State) (k : Nat),
    (∀ m, addrMax < s.ip + k → src s m k = .error { cause := .invalidAddress, info := (s.ip : Int) + (k : Int) }) ∧
    (s.ip + k ≤ addrMax →
      src s .immediate k = .ok (s.load (s.ip + k)) ∧
      (∀ (m : Mode) (a : Int),
        (m = .position ∧ a = (s.load (s.ip + k)).toInt) ∨
        (m = .relative ∧ a = (s.load (s.ip + k)).toInt + s.rb.toInt) →
        (0 ≤ a ∧ a ≤ wordMax → src s m k = .ok (s.load a.toNat)) ∧
        (¬ (0 ≤ a ∧ a ≤ wordMax) → src s m k = .error { cause := .invalidAddress, info := a })))

/-- R54: `Dst(k)` in its two modes, with its address check and the write limit. -/
def Obligations.DestinationParameterAddress : Prop :=
  ∀ (s : State) (k : Nat),
    (∀ m, m ≠ .immediate → addrMax < s.ip + k →
      dst s m k = .error { cause := .invalidAddress, info := (s.ip : Int) + (k : Int) }) ∧
    (s.ip + k ≤ addrMax → ∀ (m : Mode) (a : Int),
      (m = .position ∧ a = (s.load (s.ip + k)).toInt) ∨
      (m = .relative ∧ a = (s.load (s.ip + k)).toInt + s.rb.toInt) →
      (¬ (0 ≤ a ∧ a ≤ wordMax) → dst s m k = .error { cause := .invalidAddress, info := a }) ∧
      (0 ≤ a → a ≤ wordMax → ∀ l, s.cfg.addrLimit = some l → (l : Int) ≤ a →
        dst s m k = .error { cause := .capacityExceeded, info := a }) ∧
      (0 ≤ a → a ≤ wordMax → (∀ l, s.cfg.addrLimit = some l → a < (l : Int)) → dst s m k = .ok a.toNat))

/-- R55: what an instruction does depends on the modes of its parameters only through what they resolve to. -/
def Obligations.ModesMatterOnlyByWhatTheyResolveTo : Prop :=
  ∀ (s : State) (m1 m2 m3 n1 n2 n3 : Mode), src s m1 1 = src s n1 1 → src s m2 2 = src s n2 2 →
    (dst s m3 3 = dst s n3 3 →
      exec (.add m1 m2 m3) s = exec (.add n1 n2 n3) s ∧ exec (.mul m1 m2 m3) s = exec (.mul n1 n2 n3) s ∧
      exec (.lessThan m1 m2 m3) s = exec (.lessThan n1 n2 n3) s ∧
      exec (.equals m1 m2 m3) s = exec (.equals n1 n2 n3) s) ∧
    (dst s m3 1 = dst s n3 1 → exec (.input m3) s = exec (.input n3) s) ∧
    exec (.output m1) s = exec (.output n1) s ∧ exec (.adjustBase m1) s = exec (.adjustBase n1) s ∧
    exec (.jumpIfTrue m1 m2) s = exec (.jumpIfTrue n1 n2) s ∧
    exec (.jumpIfFalse m1 m2) s = exec (.jumpIfFalse n1 n2) s

/-- R11: `toWord` keeps an integer in range; out of range it gives, under wrap, the one word congruent to it modulo
`2^64`, and under fault it raises ARITHMETIC_OVERFLOW with the exact integer. -/
def Obligations.ToWordReducesExactResults : Prop :=
  ∀ x : Int,
    (wordMin ≤ x → x ≤ wordMax → ∀ o, ∃ y, toWord o x = .ok y ∧ y.toInt = x) ∧
    (¬ (wordMin ≤ x ∧ x ≤ wordMax) →
      (∃ y, toWord .wrap x = .ok y ∧ ∀ z : Word, (z.toInt - x) % 2 ^ 64 = 0 ↔ z = y) ∧
      toWord .fault x = .error { cause := .arithmeticOverflow, info := x })

/-- R80: add and mul commute, under both settings of OVERFLOW, and under wrap they are associative. Two forms of one of
them whose sources resolve to `v1, v2` and to `v2, v1`, with the same destination, have the same outcome from every state;
at two states they both write the same word or both raise ARITHMETIC_OVERFLOW with the same integer; and the two ways of
grouping `v1, v2, v3` over two instructions leave the same word. -/
def Obligations.ArithmeticCommutesAndAssociates : Prop :=
  ∀ op : Mode → Mode → Mode → Instr, op = .add ∨ op = .mul →
    (∀ (s : State) (m1 m2 m3 n1 n2 n3 : Mode) (v1 v2 : Word), src s m1 1 = .ok v1 → src s m2 2 = .ok v2 →
      src s n1 1 = .ok v2 → src s n2 2 = .ok v1 → dst s m3 3 = dst s n3 3 →
      exec (op m1 m2 m3) s = exec (op n1 n2 n3) s) ∧
    (∀ (s u : State) (m1 m2 m3 n1 n2 n3 : Mode) (v1 v2 : Word) (a b : Nat), s.cfg.overflow = u.cfg.overflow →
      ResolvesSSD s m1 m2 m3 v1 v2 a → ResolvesSSD u n1 n2 n3 v2 v1 b →
      (∃ r, ExecWrites (op m1 m2 m3) s a r ∧ ExecWrites (op n1 n2 n3) u b r) ∨
      (∃ x, ExecFaults (op m1 m2 m3) s { cause := .arithmeticOverflow, info := x } ∧
        ExecFaults (op n1 n2 n3) u { cause := .arithmeticOverflow, info := x })) ∧
    (∀ (s1 s2 s3 s4 : State) (v1 v2 v3 p q left right : Word),
      WrapGives op s1 v1 v2 p → WrapGives op s2 p v3 left →
      WrapGives op s3 v2 v3 q → WrapGives op s4 v1 q right → left = right)

/-! ### the instructions: result, frame, faults -/

/-- R78: add. Its word; its result, `ip` and frame when its parameters resolve; its overflow under fault; and the
first fault of resolving. -/
def Obligations.AddWritesTheSum : Prop :=
  ∀ (m1 m2 m3 : Mode) (s : State),
    (m3 ≠ .immediate → ∀ strict, decode strict
      (BitVec.ofNat 64 (1 + 100 * m1.digit + 1000 * m2.digit + 10000 * m3.digit)) = .ok (.add m1 m2 m3)) ∧
    (∀ v1 v2 a, ResolvesSSD s m1 m2 m3 v1 v2 a →
      s.cfg.overflow = .wrap ∨ (wordMin ≤ v1.toInt + v2.toInt ∧ v1.toInt + v2.toInt ≤ wordMax) →
      ExecWrites (.add m1 m2 m3) s a (BitVec.ofInt 64 (v1.toInt + v2.toInt))) ∧
    (∀ v1 v2 a, ResolvesSSD s m1 m2 m3 v1 v2 a → s.cfg.overflow = .fault →
      ¬ (wordMin ≤ v1.toInt + v2.toInt ∧ v1.toInt + v2.toInt ≤ wordMax) →
      ExecFaults (.add m1 m2 m3) s { cause := .arithmeticOverflow, info := v1.toInt + v2.toInt }) ∧
    (∀ r, FirstFaultSSD s m1 m2 m3 r → ExecFaults (.add m1 m2 m3) s r)

/-- R79: mul, as add with the exact product. -/
def Obligations.MulWritesTheProduct : Prop :=
  ∀ (m1 m2 m3 : Mode) (s : State),
    (m3 ≠ .immediate → ∀ strict, decode strict
      (BitVec.ofNat 64 (2 + 100 * m1.digit + 1000 * m2.digit + 10000 * m3.digit)) = .ok (.mul m1 m2 m3)) ∧
    (∀ v1 v2 a, ResolvesSSD s m1 m2 m3 v1 v2 a →
      s.cfg.overflow = .wrap ∨ (wordMin ≤ v1.toInt * v2.toInt ∧ v1.toInt * v2.toInt ≤ wordMax) →
      ExecWrites (.mul m1 m2 m3) s a (BitVec.ofInt 64 (v1.toInt * v2.toInt))) ∧
    (∀ v1 v2 a, ResolvesSSD s m1 m2 m3 v1 v2 a → s.cfg.overflow = .fault →
      ¬ (wordMin ≤ v1.toInt * v2.toInt ∧ v1.toInt * v2.toInt ≤ wordMax) →
      ExecFaults (.mul m1 m2 m3) s { cause := .arithmeticOverflow, info := v1.toInt * v2.toInt }) ∧
    (∀ r, FirstFaultSSD s m1 m2 m3 r → ExecFaults (.mul m1 m2 m3) s r)

/-- R98: less-than, a signed comparison. -/
def Obligations.LessThanWritesOneOrZero : Prop :=
  ∀ (m1 m2 m3 : Mode) (s : State),
    (m3 ≠ .immediate → ∀ strict, decode strict
      (BitVec.ofNat 64 (7 + 100 * m1.digit + 1000 * m2.digit + 10000 * m3.digit)) = .ok (.lessThan m1 m2 m3)) ∧
    (∀ v1 v2 a, ResolvesSSD s m1 m2 m3 v1 v2 a →
      ExecWrites (.lessThan m1 m2 m3) s a (if v1.toInt < v2.toInt then 1 else 0)) ∧
    (∀ r, FirstFaultSSD s m1 m2 m3 r → ExecFaults (.lessThan m1 m2 m3) s r)

/-- R99: equals, a comparison of words. -/
def Obligations.EqualsWritesOneOrZero : Prop :=
  ∀ (m1 m2 m3 : Mode) (s : State),
    (m3 ≠ .immediate → ∀ strict, decode strict
      (BitVec.ofNat 64 (8 + 100 * m1.digit + 1000 * m2.digit + 10000 * m3.digit)) = .ok (.equals m1 m2 m3)) ∧
    (∀ v1 v2 a, ResolvesSSD s m1 m2 m3 v1 v2 a →
      ExecWrites (.equals m1 m2 m3) s a (if v1 = v2 then 1 else 0)) ∧
    (∀ r, FirstFaultSSD s m1 m2 m3 r → ExecFaults (.equals m1 m2 m3) s r)

/-- R100: adjust-base adds its operand, read with the old `rb`, to `rb`, and changes nothing else but `ip`; no other
instruction changes `rb`. -/
def Obligations.AdjustBaseAddsToBase : Prop :=
  ∀ (m1 : Mode) (s : State),
    (∀ strict, decode strict (BitVec.ofNat 64 (9 + 100 * m1.digit)) = .ok (.adjustBase m1)) ∧
    (∀ v1, src s m1 1 = .ok v1 →
      s.cfg.overflow = .wrap ∨ (wordMin ≤ s.rb.toInt + v1.toInt ∧ s.rb.toInt + v1.toInt ≤ wordMax) →
      ∃ t, exec (.adjustBase m1) s = .next t ∧ t.rb = BitVec.ofInt 64 (s.rb.toInt + v1.toInt) ∧ t.ip = s.ip + 2 ∧
        SameMemory s t ∧ SameStatus s t ∧ SameIo s t) ∧
    (∀ v1, src s m1 1 = .ok v1 → s.cfg.overflow = .fault →
      ¬ (wordMin ≤ s.rb.toInt + v1.toInt ∧ s.rb.toInt + v1.toInt ≤ wordMax) →
      ExecFaults (.adjustBase m1) s { cause := .arithmeticOverflow, info := s.rb.toInt + v1.toInt }) ∧
    (∀ r, src s m1 1 = .error r → ExecFaults (.adjustBase m1) s r) ∧
    (∀ i t, exec i s = .next t → t.rb ≠ s.rb → ∃ m, i = .adjustBase m)

/-- R96: jump-if-true. Both parameters resolve first; a taken jump to a negative target faults. -/
def Obligations.JumpIfTrueMovesOrFallsThrough : Prop :=
  ∀ (m1 m2 : Mode) (s : State),
    (∀ strict, decode strict (BitVec.ofNat 64 (5 + 100 * m1.digit + 1000 * m2.digit)) = .ok (.jumpIfTrue m1 m2)) ∧
    (∀ v1 v2, src s m1 1 = .ok v1 → src s m2 2 = .ok v2 →
      (v1 ≠ 0 → 0 ≤ v2.toInt → ExecMovesTo (.jumpIfTrue m1 m2) s v2.toInt.toNat) ∧
      (v1 ≠ 0 → v2.toInt < 0 → ExecFaults (.jumpIfTrue m1 m2) s { cause := .invalidAddress, info := v2.toInt }) ∧
      (v1 = 0 → ExecMovesTo (.jumpIfTrue m1 m2) s (s.ip + 3))) ∧
    (∀ r, FirstFaultSS s m1 m2 r → ExecFaults (.jumpIfTrue m1 m2) s r)

/-- R97: jump-if-false. -/
def Obligations.JumpIfFalseMovesOrFallsThrough : Prop :=
  ∀ (m1 m2 : Mode) (s : State),
    (∀ strict, decode strict (BitVec.ofNat 64 (6 + 100 * m1.digit + 1000 * m2.digit)) = .ok (.jumpIfFalse m1 m2)) ∧
    (∀ v1 v2, src s m1 1 = .ok v1 → src s m2 2 = .ok v2 →
      (v1 = 0 → 0 ≤ v2.toInt → ExecMovesTo (.jumpIfFalse m1 m2) s v2.toInt.toNat) ∧
      (v1 = 0 → v2.toInt < 0 → ExecFaults (.jumpIfFalse m1 m2) s { cause := .invalidAddress, info := v2.toInt }) ∧
      (v1 ≠ 0 → ExecMovesTo (.jumpIfFalse m1 m2) s (s.ip + 3))) ∧
    (∀ r, FirstFaultSS s m1 m2 r → ExecFaults (.jumpIfFalse m1 m2) s r)

/-- R101: halt closes the channels, records CLOSE and ends in Halted; `ip`, `rb` and `Mem` are unchanged, and no later step
changes the core. -/
def Obligations.HaltClosesAndStops : Prop :=
  (∀ w : Word, 0 ≤ w.toInt → w.toNat % 100 = 99 → decode false w = .ok .halt) ∧
  (∀ w : Word, 0 ≤ w.toInt → w.toNat % 100 = 99 →
    decode true w = if w.toNat / 100 = 0 then .ok .halt else .error .illegalMode) ∧
  ∀ s : State, ∃ t, exec .halt s = .next t ∧ t.run = .halted ∧ t.chan.dataClosed = true ∧
    (s.cfg.interactive = true → t.chan.readyClosed = true) ∧
    (s.cfg.interactive = false → t.chan.readyClosed = s.chan.readyClosed) ∧
    t.chan.readySlot = s.chan.readySlot ∧ t.trace = s.trace ++ [.close] ∧
    SameMemory s t ∧ t.ip = s.ip ∧ t.rb = s.rb ∧ t.fault = s.fault ∧ t.cfg = s.cfg ∧ t.ioPhase = s.ioPhase ∧
    t.host = s.host ∧
    ∀ u, step t = .next u → u.run = .halted ∧ SameMemory t u ∧ u.ip = t.ip ∧ u.rb = t.rb ∧ u.fault = t.fault ∧
      u.ioPhase = t.ioPhase

/-- R92, R84: output sends the value read at resolve time when the host takes it, and waits while it does not. Which moves
of the host take it (`recvData`, `serve`) is the model's choice, log entry 4, and that waiting is a next state, the state
itself, is the model's choice, log entry 7. -/
def Obligations.OutputSendsOrWaits : Prop :=
  ∀ (m1 : Mode) (s : State),
    (∀ strict, decode strict (BitVec.ofNat 64 (4 + 100 * m1.digit)) = .ok (.output m1)) ∧
    (∀ v1, src s m1 1 = .ok v1 → hostMove s.host = .recvData ∨ hostMove s.host = .serve →
      ∃ t, exec (.output m1) s = .next t ∧ t.trace = s.trace ++ [.sent v1] ∧ t.ip = s.ip + 2 ∧ t.rb = s.rb ∧
        SameMemory s t ∧ SameStatus s t ∧ t.ioPhase = s.ioPhase ∧ t.chan = s.chan ∧ t.host = s.host) ∧
    (∀ v1, src s m1 1 = .ok v1 → hostMove s.host ≠ .recvData → hostMove s.host ≠ .serve →
      exec (.output m1) s = .next s) ∧
    (∀ r, src s m1 1 = .error r → ExecFaults (.output m1) s r)

/-- R91, R83: input. Its word; under INTERACTIVE with `io_phase` Idle the step is the pulse alone; otherwise it receives
the value the host gives and writes it, or waits; its faults come before any hand-off. Which moves of the host give a value
(`sendData`, `serve` with its listed values) is the model's choice, log entries 4 and 6, and that waiting is a next state,
the state itself, is the model's choice, log entry 7. -/
def Obligations.InputPulsesThenReceives : Prop :=
  ∀ (m1 : Mode) (s : State),
    (m1 ≠ .immediate → ∀ strict, decode strict (BitVec.ofNat 64 (3 + 100 * m1.digit)) = .ok (.input m1)) ∧
    (∀ a, dst s m1 1 = .ok a → s.cfg.interactive = true → s.ioPhase = .idle →
      exec (.input m1) s = .next (pulse s)) ∧
    (∀ a v h, dst s m1 1 = .ok a → (s.cfg.interactive = false ∨ s.ioPhase = .pulseDone) →
      s.chan.dataClosed = false → givesInput s.host = some (v, h) →
      ∃ t, exec (.input m1) s = .next t ∧ t.load a = v ∧ SameMemoryBut a s t ∧ t.ioPhase = .idle ∧
        t.ip = s.ip + 2 ∧ t.rb = s.rb ∧ SameStatus s t ∧ t.chan = s.chan ∧
        t.trace = s.trace ++ [.received v] ∧ t.host = h) ∧
    (∀ a, dst s m1 1 = .ok a → (s.cfg.interactive = false ∨ s.ioPhase = .pulseDone) →
      (s.chan.dataClosed = true ∨ givesInput s.host = none) → exec (.input m1) s = .next s) ∧
    (∀ v, hostMove s.host = .sendData v → givesInput s.host = some (v, s.host)) ∧
    (∀ v vs, hostMove s.host = .serve → s.host.inputs = v :: vs →
      givesInput s.host = some (v, { s.host with inputs := vs })) ∧
    (∀ r, dst s m1 1 = .error r → ExecFaults (.input m1) s r)

/-- R85: the readiness pulse. Depth 0: a hand-off when the host accepts it. Depth 1: a post into the empty buffer, and a
step of the host that takes it. Otherwise the core waits. Which moves of the host accept or take it (`recvReady`, `serve`)
and that a step uses the move up is the model's choice, log entries 4 and 21; that waiting leaves the state itself is log
entry 7; that a pulse is taken also from a core that is not Running is log entry 12. -/
def Obligations.PulseIsHandedOffOrPosted : Prop :=
  ∀ s : State,
    (s.cfg.readyDepth = .zero → hostMove s.host = .recvReady ∨ hostMove s.host = .serve →
      (pulse s).ioPhase = .pulseDone ∧ (pulse s).trace = s.trace ++ [.ready] ∧ (pulse s).chan = s.chan) ∧
    (s.cfg.readyDepth = .zero → hostMove s.host ≠ .recvReady → hostMove s.host ≠ .serve → pulse s = s) ∧
    (s.cfg.readyDepth = .one → s.chan.readySlot = false →
      (pulse s).ioPhase = .pulseDone ∧ (pulse s).trace = s.trace ++ [.ready] ∧
      (pulse s).chan = { s.chan with readySlot := true }) ∧
    (s.cfg.readyDepth = .one → s.chan.readySlot = true → pulse s = s) ∧
    (SameMemory s (pulse s) ∧ (pulse s).ip = s.ip ∧ (pulse s).rb = s.rb ∧ SameStatus s (pulse s) ∧
      (pulse s).host = s.host) ∧
    (s.chan.readySlot = true → s.chan.readyClosed = false →
      hostMove s.host = .recvReady ∨ hostMove s.host = .serve →
      ∃ u, step s = .next (tick u) ∧ u.chan = { s.chan with readySlot := false } ∧
        u.trace = s.trace ++ [.readyTaken] ∧ SameMemory s u ∧ u.ip = s.ip ∧ u.rb = s.rb ∧ SameStatus s u ∧
        u.ioPhase = s.ioPhase ∧ u.host = s.host)

/-! ### faults -/

/-- R111: fault entry writes the record and the run state, and nothing else. -/
def Obligations.FaultEntryRecordsAndStops : Prop :=
  ∀ (s : State) (r : Raised), EntersFault s (s.raise r) r

/-- R69, R70: an `ip` above WORD_MAX raises INVALID_ADDRESS with `ip`; an illegal word raises its cause with the word.
That the step also uses up the host's move (`tick`) is the model's choice, log entry 4. -/
def Obligations.FetchAndDecodeFaultsAreTaken : Prop :=
  ∀ s : State, s.run = .running → hostStep s = none →
    (addrMax < s.ip →
      ∃ u, step s = .next (tick u) ∧ EntersFault s u { cause := .invalidAddress, info := (s.ip : Int) }) ∧
    (s.ip ≤ addrMax → ∀ c, decode s.cfg.strictUnusedModes (s.load s.ip) = .error c →
      ∃ u, step s = .next (tick u) ∧ EntersFault s u { cause := c, info := (s.load s.ip).toInt })

/-- R75: a step that faults changes nothing but the run state and the fault record (R111). That the step
also uses up the host's move, `tick`, is the model's choice, log entry 4. -/
def Obligations.FaultingStepHasNoEffect : Prop :=
  ∀ s t : State, step s = .next t → s.run = .running → t.run = .faulted →
    ∃ u r, t = tick u ∧ EntersFault s u r

/-- R108, R109: without ADDR_LIMIT there is no CAPACITY_EXCEEDED, and under wrap no ARITHMETIC_OVERFLOW. -/
def Obligations.LimitAndOverflowFaultsNeedTheirSetting : Prop :=
  ∀ (s t : State) (f : FaultRecord), step s = .next t → s.run = .running → t.run = .faulted → t.fault = some f →
    (s.cfg.addrLimit = none → f.cause ≠ .capacityExceeded) ∧
    (s.cfg.overflow = .wrap → f.cause ≠ .arithmeticOverflow)

/-- R103 (the column "raised by"): the causes that the execute part of a legal instruction can have. -/
def Obligations.CausesOfEachInstruction : Prop :=
  ∀ (i : Instr) (s t : State) (f : FaultRecord), i.wellFormed = true → exec i s = .next t → s.run = .running →
    t.run = .faulted → t.fault = some f →
    i ≠ .halt ∧
    (f.cause = .invalidAddress ∨
     (f.cause = .capacityExceeded ∧ s.cfg.addrLimit ≠ none ∧ i.destMode ≠ none) ∨
     (f.cause = .arithmeticOverflow ∧ s.cfg.overflow = .fault ∧
       ((∃ m1 m2 m3, i = .add m1 m2 m3) ∨ (∃ m1 m2 m3, i = .mul m1 m2 m3) ∨ ∃ m1, i = .adjustBase m1)))

/-! ### the whole machine -/

/-- R72: a step of a Running core, when the host makes no step of its own, is `exec` of the decoded instruction, after
which the host's move is used up (log entry 4) and nothing else is added. -/
def Obligations.StepRunsTheDecodedInstruction : Prop :=
  ∀ (s : State) (i : Instr), s.run = .running → hostStep s = none → s.ip ≤ addrMax →
    decode s.cfg.strictUnusedModes (s.load s.ip) = .ok i →
    ∃ t, exec i s = .next t ∧ step s = .next (tick t) ∧
      tick t = { t with host := { t.host with schedule := t.host.schedule.tail, clock := t.host.clock + 1 } }

/-- The model's choice: no instruction ends in a stop, each answers a next state from every state. A fault of the core is
one (log entry 9), also of an immediate destination, which no run reaches (log entry 13), and so is waiting for the host
at an input or output (log entry 7), where R76 gives the core no step. -/
def Obligations.EveryInstructionAnswersANextState : Prop :=
  ∀ (i : Instr) (s : State), ∃ t, exec i s = .next t

/-- R68, R112: a core that is Halted or Faulted never leaves that state, its fault record stays, and no step changes its
memory or registers. That the outcome of having no step is the stop `coreHalted` or `coreFaulted` is the model's
choice, log entry 8. -/
def Obligations.StoppedCoreStaysStopped : Prop :=
  ∀ s : State, s.run ≠ .running →
    (hostStep s = none → s.run = .halted → step s = .fault .coreHalted) ∧
    (hostStep s = none → s.run = .faulted → step s = .fault .coreFaulted) ∧
    (∀ t, step s = .next t → t.run = s.run ∧ t.fault = s.fault ∧ t.mem = s.mem ∧ t.ip = s.ip ∧ t.rb = s.rb ∧
      t.ioPhase = s.ioPhase)

/-- R19: Running may become Halted, by halt only, or Faulted; there is no other transition. -/
def Obligations.RunStateTransitions : Prop :=
  ∀ s t : State, step s = .next t → t.run ≠ s.run →
    s.run = .running ∧ (t.run = .faulted ∨ (t.run = .halted ∧ fetch s = .ok .halt))

/-- R16, R17: `ip` changes only to `ip + width`, exactly, or to the non-negative target of a jump. -/
def Obligations.InstructionPointerMoves : Prop :=
  ∀ s t : State, step s = .next t → t.ip ≠ s.ip →
    ∃ i, fetch s = .ok i ∧
      (t.ip = s.ip + i.width ∨
        ∃ m1 m2 v, (i = .jumpIfTrue m1 m2 ∨ i = .jumpIfFalse m1 m2) ∧ src s m2 2 = .ok v ∧ 0 ≤ v.toInt ∧
          (t.ip : Int) = v.toInt)

/-- R15, R23, R100: adjust-base is the only writer of `rb`. -/
def Obligations.OnlyAdjustBaseWritesBase : Prop :=
  ∀ s t : State, step s = .next t → t.rb ≠ s.rb → ∃ m1, fetch s = .ok (.adjustBase m1)

/-- R37, R32: a step writes memory only at the address of its instruction's destination. -/
def Obligations.OnlyTheDestinationIsWritten : Prop :=
  ∀ (s t : State) (b : Nat), step s = .next t → t.load b ≠ s.load b →
    ∃ i m, fetch s = .ok i ∧ i.destMode = some m ∧ dst s m i.modes.length = .ok b

/-- R90: a step adds at most one event to the trace, and takes none away. -/
def Obligations.TraceGrowsByAtMostOneEvent : Prop :=
  ∀ s t : State, step s = .next t → t.trace = s.trace ∨ ∃ e, t.trace = s.trace ++ [e]

/-- R82, R90, R93: an event of a hand-off comes from the hand-off the core offered, CLOSE from a halt, and READY_TAKEN from a
buffered pulse that the host takes. Which moves of the host take it is the model's choice, log entry 4, and that a pulse
delivered after close is a READY_TAKEN too is log entry 19. -/
def Obligations.EventsComeFromOffers : Prop :=
  ∀ s t : State, step s = .next t →
    (∀ v, t.trace = s.trace ++ [.sent v] → offer s = some (.send v)) ∧
    (∀ v, t.trace = s.trace ++ [.received v] → ∃ a, offer s = some (.recv a) ∧ t.load a = v) ∧
    (t.trace = s.trace ++ [.ready] → offer s = some .pulse) ∧
    (t.trace = s.trace ++ [.readyTaken] →
      s.chan.readySlot = true ∧ (hostMove s.host = .recvReady ∨ hostMove s.host = .serve)) ∧
    (t.trace = s.trace ++ [.close] → fetch s = .ok .halt)

/-- R22: no step changes the configuration, which the model holds in State (log entry 2). -/
def Obligations.ConfigurationNeverChanges : Prop :=
  ∀ s t : State, step s = .next t → t.cfg = s.cfg

/-- R42, R93: a step of the host alone changes no memory and no register of the core. Which moves are steps of the host
alone is the model's choice, log entry 4. -/
def Obligations.HostStepsLeaveTheCore : Prop :=
  ∀ s t : State, hostStep s = some t →
    t.mem = s.mem ∧ t.ip = s.ip ∧ t.rb = s.rb ∧ t.ioPhase = s.ioPhase ∧ SameStatus s t ∧
    t.chan.dataClosed = s.chan.dataClosed ∧ t.chan.readyClosed = s.chan.readyClosed

/-- R67 (item 1), R82: what an instruction without a hand-off does is the same whatever the host is. -/
def Obligations.OtherInstructionsIgnoreTheHost : Prop :=
  ∀ (i : Instr) (s t : State) (h : HostSide), (∀ m1, i ≠ .input m1) → (∀ m1, i ≠ .output m1) →
    exec i s = .next t → exec i { s with host := h } = .next { t with host := h }

/-- R89, R76: while the host delays, a core that waits for it stays as it is for any number of steps, and is Running. That
a waiting core has steps at all, which change nothing of it, is the model's choice, log entry 7. -/
def Obligations.UnservedCoreWaitsForever : Prop :=
  ∀ (n : Nat) (s : State) (o : Offer), s.host.schedule = [] → s.host.rest = .delay → offer s = some o →
    (o = .pulse → s.cfg.readyDepth = .zero ∨ s.chan.readySlot = true) →
    ∃ t, core.run n s = .next t ∧ t.run = .running ∧ t.mem = s.mem ∧ t.ip = s.ip ∧ t.rb = s.rb ∧
      t.fault = s.fault ∧ t.ioPhase = s.ioPhase ∧ t.chan = s.chan ∧ t.trace = s.trace ∧ t.cfg = s.cfg

/-- R46, R74: a word that add writes at the address of the next instruction is the word the next fetch decodes. -/
def Obligations.WrittenWordIsFetchedNext : Prop :=
  ∀ (m1 m2 m3 : Mode) (s : State) (v1 v2 : Word), s.cfg.overflow = .wrap →
    ResolvesSSD s m1 m2 m3 v1 v2 (s.ip + 4) →
    ∃ t, exec (.add m1 m2 m3) s = .next t ∧
      (∀ i, decode s.cfg.strictUnusedModes (BitVec.ofInt 64 (v1.toInt + v2.toInt)) = .ok i → fetch t = .ok i) ∧
      (∀ c, decode s.cfg.strictUnusedModes (BitVec.ofInt 64 (v1.toInt + v2.toInt)) = .error c →
        fetch t = .error { cause := c, info := (BitVec.ofInt 64 (v1.toInt + v2.toInt) : Word).toInt })

/-- R87: the host's reads of the closed channels: EOS, every time; but the first read of a readiness channel closed with
a pulse in its buffer gives the pulse or EOS, a draw. No core state changes. The host's moves, the record of its last read
and the one draw are the model's, log entries 4 and 10; that the pulse is recorded as READY_TAKEN is log entry 19. -/
def Obligations.ReadsAfterCloseGiveEndOfStream : Prop :=
  ∀ s : State,
    (s.chan.dataClosed = true → hostMove s.host = .recvData →
      ∃ t, step s = .next t ∧ t.host.lastRead = some .eos ∧ SameMemory s t ∧ t.ip = s.ip ∧ t.rb = s.rb ∧
        SameStatus s t ∧ t.ioPhase = s.ioPhase ∧ t.chan = s.chan ∧ t.trace = s.trace) ∧
    (s.chan.readyClosed = true → hostMove s.host = .recvReady →
      ∃ t, step s = .next t ∧ t.host.readyRead = true ∧
        (t.host.lastRead = some .eos ∧ t.trace = s.trace ∨
          t.host.lastRead = some .pulse ∧ t.trace = s.trace ++ [.readyTaken] ∧ s.chan.readySlot = true ∧
            s.host.readyRead = false) ∧
        SameMemory s t ∧ t.ip = s.ip ∧ t.rb = s.rb ∧ SameStatus s t ∧ t.ioPhase = s.ioPhase ∧ t.chan = s.chan)

/-! ### invariants and reset -/

/-- R30, R33: every step keeps memory in its canonical form and within the address space. -/
def Obligations.StepKeepsMemoryCanonical : Prop :=
  ∀ s t : State, MemoryCanonical s → step s = .next t → MemoryCanonical t

/-- R20: every step keeps "there is a fault record exactly when the core is Faulted, at the address `ip` has". -/
def Obligations.StepKeepsFaultRecord : Prop :=
  ∀ s t : State, FaultRecorded s → step s = .next t → FaultRecorded t

/-- R26, R86, R111: every step keeps the channels closed exactly when the core is Halted, and CLOSE recorded once. That the
readiness fields are false where R26 says they do not exist is the model's choice, log entry 11. -/
def Obligations.StepKeepsChannelsAndClose : Prop :=
  ∀ s t : State, ChannelsTrackRun s → ClosedOnce s → step s = .next t → ChannelsTrackRun t ∧ ClosedOnce t

/-- R25: every step keeps "`io_phase` is PulseDone only at an input that resolves, under INTERACTIVE". -/
def Obligations.StepKeepsPulsePending : Prop :=
  ∀ s t : State, PulsePending s → step s = .next t → PulsePending t

/-- R25, R91: every step keeps "one READY for each IN, and one more while the pulse is done". -/
def Obligations.StepKeepsOnePulsePerInput : Prop :=
  ∀ s t : State, PulsePerInput s → step s = .next t → PulsePerInput t

/-- The invariants hold at reset. The configuration and the empty image of State.reset are the model's choice, log entries 3
and 14. -/
def Obligations.ResetMeetsTheInvariants : Prop := MachineInv State.reset

/-- R29, R123: the invariants hold after a reset with any configuration and any program image. That the readiness fields are
false where they do not exist is the model's choice, log entry 11. -/
def Obligations.EveryResetMeetsTheInvariants : Prop :=
  ∀ (cfg : Config) (program : List Word), MachineInv (State.resetWith cfg program)

/-- R29, R90, R123: the state after reset. R29 gives the readiness fields a value where they are present; that they are
false in every configuration is the model's choice, log entry 11. The host's side after reset is the model's choice (log
entry 5) and is not stated. -/
def Obligations.ResetLeavesTheStatedValues : Prop :=
  ∀ (cfg : Config) (program : List Word),
    (∀ a v, a ≤ addrMax → program[a]? = some v → (State.resetWith cfg program).load a = v) ∧
    (∀ a, program.length ≤ a → (State.resetWith cfg program).load a = 0) ∧
    (State.resetWith cfg program).ip = 0 ∧ (State.resetWith cfg program).rb = 0 ∧
    (State.resetWith cfg program).run = .running ∧ (State.resetWith cfg program).fault = none ∧
    (State.resetWith cfg program).ioPhase = .idle ∧ (State.resetWith cfg program).chan.dataClosed = false ∧
    (State.resetWith cfg program).chan.readyClosed = false ∧ (State.resetWith cfg program).chan.readySlot = false ∧
    (State.resetWith cfg program).trace = [] ∧ (State.resetWith cfg program).cfg = cfg

/-- R122, R104: from reset with the empty image the first fetch reads 0 and faults with ILLEGAL_OPCODE. That State.reset
holds the empty image is the model's choice, log entry 14, as is that the host's move is used up, log entry 4. -/
def Obligations.EmptyImageFaultsAtOnce : Prop :=
  ∃ u, step State.reset = .next (tick u) ∧ EntersFault State.reset u { cause := .illegalOpcode, info := 0 }
end

