-- ==== Sys2Proof/Laws/State.lean ====
section
/-!
SUPPORT. One lemma for each field of State under each named update, true by rfl, so that no proof unfolds a record update.
-/

namespace Sys2Proof.Machine

variable (s : State)

/-! ### store -/

@[simp] theorem State.store_cfg (a : Nat) (v : Word) : (s.store a v).cfg = s.cfg := rfl
@[simp] theorem State.store_mem (a : Nat) (v : Word) : (s.store a v).mem = s.mem.write a v := rfl
@[simp] theorem State.store_ip (a : Nat) (v : Word) : (s.store a v).ip = s.ip := rfl
@[simp] theorem State.store_rb (a : Nat) (v : Word) : (s.store a v).rb = s.rb := rfl
@[simp] theorem State.store_run (a : Nat) (v : Word) : (s.store a v).run = s.run := rfl
@[simp] theorem State.store_fault (a : Nat) (v : Word) : (s.store a v).fault = s.fault := rfl
@[simp] theorem State.store_ioPhase (a : Nat) (v : Word) : (s.store a v).ioPhase = s.ioPhase := rfl
@[simp] theorem State.store_chan (a : Nat) (v : Word) : (s.store a v).chan = s.chan := rfl
@[simp] theorem State.store_trace (a : Nat) (v : Word) : (s.store a v).trace = s.trace := rfl
@[simp] theorem State.store_host (a : Nat) (v : Word) : (s.store a v).host = s.host := rfl

/-! ### setIp -/

@[simp] theorem State.setIp_cfg (t : Nat) : (s.setIp t).cfg = s.cfg := rfl
@[simp] theorem State.setIp_mem (t : Nat) : (s.setIp t).mem = s.mem := rfl
@[simp] theorem State.setIp_ip (t : Nat) : (s.setIp t).ip = t := rfl
@[simp] theorem State.setIp_rb (t : Nat) : (s.setIp t).rb = s.rb := rfl
@[simp] theorem State.setIp_run (t : Nat) : (s.setIp t).run = s.run := rfl
@[simp] theorem State.setIp_fault (t : Nat) : (s.setIp t).fault = s.fault := rfl
@[simp] theorem State.setIp_ioPhase (t : Nat) : (s.setIp t).ioPhase = s.ioPhase := rfl
@[simp] theorem State.setIp_chan (t : Nat) : (s.setIp t).chan = s.chan := rfl
@[simp] theorem State.setIp_trace (t : Nat) : (s.setIp t).trace = s.trace := rfl
@[simp] theorem State.setIp_host (t : Nat) : (s.setIp t).host = s.host := rfl

/-! ### advance -/

@[simp] theorem State.advance_cfg (n : Nat) : (s.advance n).cfg = s.cfg := rfl
@[simp] theorem State.advance_mem (n : Nat) : (s.advance n).mem = s.mem := rfl
@[simp] theorem State.advance_ip (n : Nat) : (s.advance n).ip = s.ip + n := rfl
@[simp] theorem State.advance_rb (n : Nat) : (s.advance n).rb = s.rb := rfl
@[simp] theorem State.advance_run (n : Nat) : (s.advance n).run = s.run := rfl
@[simp] theorem State.advance_fault (n : Nat) : (s.advance n).fault = s.fault := rfl
@[simp] theorem State.advance_ioPhase (n : Nat) : (s.advance n).ioPhase = s.ioPhase := rfl
@[simp] theorem State.advance_chan (n : Nat) : (s.advance n).chan = s.chan := rfl
@[simp] theorem State.advance_trace (n : Nat) : (s.advance n).trace = s.trace := rfl
@[simp] theorem State.advance_host (n : Nat) : (s.advance n).host = s.host := rfl

/-! ### setBase -/

@[simp] theorem State.setBase_cfg (v : Word) : (s.setBase v).cfg = s.cfg := rfl
@[simp] theorem State.setBase_mem (v : Word) : (s.setBase v).mem = s.mem := rfl
@[simp] theorem State.setBase_ip (v : Word) : (s.setBase v).ip = s.ip := rfl
@[simp] theorem State.setBase_rb (v : Word) : (s.setBase v).rb = v := rfl
@[simp] theorem State.setBase_run (v : Word) : (s.setBase v).run = s.run := rfl
@[simp] theorem State.setBase_fault (v : Word) : (s.setBase v).fault = s.fault := rfl
@[simp] theorem State.setBase_ioPhase (v : Word) : (s.setBase v).ioPhase = s.ioPhase := rfl
@[simp] theorem State.setBase_chan (v : Word) : (s.setBase v).chan = s.chan := rfl
@[simp] theorem State.setBase_trace (v : Word) : (s.setBase v).trace = s.trace := rfl
@[simp] theorem State.setBase_host (v : Word) : (s.setBase v).host = s.host := rfl

/-! ### setPhase -/

@[simp] theorem State.setPhase_cfg (p : IoPhase) : (s.setPhase p).cfg = s.cfg := rfl
@[simp] theorem State.setPhase_mem (p : IoPhase) : (s.setPhase p).mem = s.mem := rfl
@[simp] theorem State.setPhase_ip (p : IoPhase) : (s.setPhase p).ip = s.ip := rfl
@[simp] theorem State.setPhase_rb (p : IoPhase) : (s.setPhase p).rb = s.rb := rfl
@[simp] theorem State.setPhase_run (p : IoPhase) : (s.setPhase p).run = s.run := rfl
@[simp] theorem State.setPhase_fault (p : IoPhase) : (s.setPhase p).fault = s.fault := rfl
@[simp] theorem State.setPhase_ioPhase (p : IoPhase) : (s.setPhase p).ioPhase = p := rfl
@[simp] theorem State.setPhase_chan (p : IoPhase) : (s.setPhase p).chan = s.chan := rfl
@[simp] theorem State.setPhase_trace (p : IoPhase) : (s.setPhase p).trace = s.trace := rfl
@[simp] theorem State.setPhase_host (p : IoPhase) : (s.setPhase p).host = s.host := rfl

/-! ### record -/

@[simp] theorem State.record_cfg (e : Event) : (s.record e).cfg = s.cfg := rfl
@[simp] theorem State.record_mem (e : Event) : (s.record e).mem = s.mem := rfl
@[simp] theorem State.record_ip (e : Event) : (s.record e).ip = s.ip := rfl
@[simp] theorem State.record_rb (e : Event) : (s.record e).rb = s.rb := rfl
@[simp] theorem State.record_run (e : Event) : (s.record e).run = s.run := rfl
@[simp] theorem State.record_fault (e : Event) : (s.record e).fault = s.fault := rfl
@[simp] theorem State.record_ioPhase (e : Event) : (s.record e).ioPhase = s.ioPhase := rfl
@[simp] theorem State.record_chan (e : Event) : (s.record e).chan = s.chan := rfl
@[simp] theorem State.record_trace (e : Event) : (s.record e).trace = s.trace ++ [e] := rfl
@[simp] theorem State.record_host (e : Event) : (s.record e).host = s.host := rfl

/-! ### raise -/

@[simp] theorem State.raise_cfg (r : Raised) : (s.raise r).cfg = s.cfg := rfl
@[simp] theorem State.raise_mem (r : Raised) : (s.raise r).mem = s.mem := rfl
@[simp] theorem State.raise_ip (r : Raised) : (s.raise r).ip = s.ip := rfl
@[simp] theorem State.raise_rb (r : Raised) : (s.raise r).rb = s.rb := rfl
@[simp] theorem State.raise_run (r : Raised) : (s.raise r).run = .faulted := rfl
@[simp] theorem State.raise_fault (r : Raised) : (s.raise r).fault = some { cause := r.cause, faultIp := s.ip, info := r.info } := rfl
@[simp] theorem State.raise_ioPhase (r : Raised) : (s.raise r).ioPhase = s.ioPhase := rfl
@[simp] theorem State.raise_chan (r : Raised) : (s.raise r).chan = s.chan := rfl
@[simp] theorem State.raise_trace (r : Raised) : (s.raise r).trace = s.trace := rfl
@[simp] theorem State.raise_host (r : Raised) : (s.raise r).host = s.host := rfl

/-! ### tick -/

@[simp] theorem tick_cfg : (tick s).cfg = s.cfg := rfl
@[simp] theorem tick_mem : (tick s).mem = s.mem := rfl
@[simp] theorem tick_ip : (tick s).ip = s.ip := rfl
@[simp] theorem tick_rb : (tick s).rb = s.rb := rfl
@[simp] theorem tick_run : (tick s).run = s.run := rfl
@[simp] theorem tick_fault : (tick s).fault = s.fault := rfl
@[simp] theorem tick_ioPhase : (tick s).ioPhase = s.ioPhase := rfl
@[simp] theorem tick_chan : (tick s).chan = s.chan := rfl
@[simp] theorem tick_trace : (tick s).trace = s.trace := rfl
@[simp] theorem tick_host : (tick s).host = tickHost s.host := rfl

/-! ### closeAll -/

@[simp] theorem closeAll_cfg : (closeAll s).cfg = s.cfg := rfl
@[simp] theorem closeAll_mem : (closeAll s).mem = s.mem := rfl
@[simp] theorem closeAll_ip : (closeAll s).ip = s.ip := rfl
@[simp] theorem closeAll_rb : (closeAll s).rb = s.rb := rfl
@[simp] theorem closeAll_run : (closeAll s).run = s.run := rfl
@[simp] theorem closeAll_fault : (closeAll s).fault = s.fault := rfl
@[simp] theorem closeAll_ioPhase : (closeAll s).ioPhase = s.ioPhase := rfl
@[simp] theorem closeAll_chan : (closeAll s).chan = { s.chan with dataClosed := true, readyClosed := s.chan.readyClosed || s.cfg.interactive } := rfl
@[simp] theorem closeAll_trace : (closeAll s).trace = s.trace ++ [.close] := rfl
@[simp] theorem closeAll_host : (closeAll s).host = s.host := rfl

/-! ### takeBufferedPulse -/

@[simp] theorem takeBufferedPulse_cfg : (takeBufferedPulse s).cfg = s.cfg := rfl
@[simp] theorem takeBufferedPulse_mem : (takeBufferedPulse s).mem = s.mem := rfl
@[simp] theorem takeBufferedPulse_ip : (takeBufferedPulse s).ip = s.ip := rfl
@[simp] theorem takeBufferedPulse_rb : (takeBufferedPulse s).rb = s.rb := rfl
@[simp] theorem takeBufferedPulse_run : (takeBufferedPulse s).run = s.run := rfl
@[simp] theorem takeBufferedPulse_fault : (takeBufferedPulse s).fault = s.fault := rfl
@[simp] theorem takeBufferedPulse_ioPhase : (takeBufferedPulse s).ioPhase = s.ioPhase := rfl
@[simp] theorem takeBufferedPulse_chan : (takeBufferedPulse s).chan = { s.chan with readySlot := false } := rfl
@[simp] theorem takeBufferedPulse_trace : (takeBufferedPulse s).trace = s.trace ++ [.readyTaken] := rfl
@[simp] theorem takeBufferedPulse_host : (takeBufferedPulse s).host = s.host := rfl

/-! ### readClosedData -/

@[simp] theorem readClosedData_cfg : (readClosedData s).cfg = s.cfg := rfl
@[simp] theorem readClosedData_mem : (readClosedData s).mem = s.mem := rfl
@[simp] theorem readClosedData_ip : (readClosedData s).ip = s.ip := rfl
@[simp] theorem readClosedData_rb : (readClosedData s).rb = s.rb := rfl
@[simp] theorem readClosedData_run : (readClosedData s).run = s.run := rfl
@[simp] theorem readClosedData_fault : (readClosedData s).fault = s.fault := rfl
@[simp] theorem readClosedData_ioPhase : (readClosedData s).ioPhase = s.ioPhase := rfl
@[simp] theorem readClosedData_chan : (readClosedData s).chan = s.chan := rfl
@[simp] theorem readClosedData_trace : (readClosedData s).trace = s.trace := rfl
@[simp] theorem readClosedData_host : (readClosedData s).host = { s.host with lastRead := some .eos } := rfl

/-! ### placeWords -/

@[simp] theorem placeWords_cfg (ws : List Word) : (placeWords s ws).cfg = s.cfg := rfl
@[simp] theorem placeWords_mem (ws : List Word) : (placeWords s ws).mem = s.mem.place s.ip ws := rfl
@[simp] theorem placeWords_ip (ws : List Word) : (placeWords s ws).ip = s.ip := rfl
@[simp] theorem placeWords_rb (ws : List Word) : (placeWords s ws).rb = s.rb := rfl
@[simp] theorem placeWords_run (ws : List Word) : (placeWords s ws).run = s.run := rfl
@[simp] theorem placeWords_fault (ws : List Word) : (placeWords s ws).fault = s.fault := rfl
@[simp] theorem placeWords_ioPhase (ws : List Word) : (placeWords s ws).ioPhase = s.ioPhase := rfl
@[simp] theorem placeWords_chan (ws : List Word) : (placeWords s ws).chan = s.chan := rfl
@[simp] theorem placeWords_trace (ws : List Word) : (placeWords s ws).trace = s.trace := rfl
@[simp] theorem placeWords_host (ws : List Word) : (placeWords s ws).host = s.host := rfl

/-! ### reading memory through the state -/

theorem State.load_eq (a : Nat) : s.load a = s.mem.read a := rfl

/-- A state update that leaves memory alone leaves every read alone. -/
theorem State.load_congr {s t : State} (h : t.mem = s.mem) (a : Nat) : t.load a = s.load a := by
  rw [State.load_eq, State.load_eq, h]

end Sys2Proof.Machine
end

