-- ==== Sys2Proof/Laws/Memory.lean ====
section
/-!
SUPPORT. What each memory operation does: to every read, and to the canonical form.
-/

namespace Sys2Proof.Machine

/-! ### reads -/

theorem Memory.read_erase (m : Memory) (a b : Nat) :
    (m.erase a).read b = if b = a then 0 else m.read b := by
  induction m with
  | nil => simp [Memory.erase, Memory.read]
  | cons c m ih =>
    obtain ⟨x, v⟩ := c
    by_cases hx : x = a
    · subst hx
      by_cases hb : b = x
      · subst hb; simpa [Memory.erase] using ih
      · simp [Memory.erase, Memory.read, ih, hb, Ne.symm hb]
    · by_cases hxb : x = b
      · subst hxb; simp [Memory.erase, Memory.read, hx]
      · simp [Memory.erase, Memory.read, hx, hxb, ih]

theorem Memory.read_insert (m : Memory) (a : Nat) (v : Word) (b : Nat) (hm : ∀ c ∈ m, c.1 ≠ a) :
    (m.insert a v).read b = if b = a then v else m.read b := by
  induction m with
  | nil =>
    by_cases hb : b = a
    · subst hb; simp [Memory.insert, Memory.read]
    · simp [Memory.insert, Memory.read, hb, Ne.symm hb]
  | cons c m ih =>
    obtain ⟨x, u⟩ := c
    have hx : x ≠ a := hm (x, u) (List.mem_cons_self ..)
    have ih := ih (fun c hc => hm c (List.mem_cons_of_mem _ hc))
    by_cases hlt : a < x
    · by_cases hb : b = a
      · subst hb; simp [Memory.insert, Memory.read, hlt]
      · simp [Memory.insert, Memory.read, hlt, hb, Ne.symm hb]
    · by_cases hxb : x = b
      · subst hxb; simp [Memory.insert, Memory.read, hlt, hx]
      · simpa [Memory.insert, Memory.read, hlt, hxb] using ih

theorem Memory.not_mem_erase (m : Memory) (a : Nat) : ∀ c ∈ m.erase a, c.1 ≠ a := by
  induction m with
  | nil => simp [Memory.erase]
  | cons c m ih =>
    obtain ⟨x, v⟩ := c
    by_cases hx : x = a
    · simpa [Memory.erase, hx] using ih
    · intro c hc
      simp only [Memory.erase, hx, if_false, List.mem_cons] at hc
      rcases hc with rfl | hc
      · exact hx
      · exact ih c hc

/-- Everything a write does to reads (R32), whatever list the memory is. -/
theorem Memory.read_write (m : Memory) (a : Nat) (v : Word) (b : Nat) :
    (m.write a v).read b = if b = a then v else m.read b := by
  unfold Memory.write
  split
  · next h => rw [Memory.read_erase, h]
  · rw [Memory.read_insert _ _ _ _ (Memory.not_mem_erase m a), Memory.read_erase]
    by_cases hb : b = a <;> simp [hb]

@[simp] theorem State.load_store_self (s : State) (a : Nat) (v : Word) : (s.store a v).load a = v := by
  simp [State.load_eq, Memory.read_write]

theorem State.load_store_of_ne (s : State) (a : Nat) (v : Word) {b : Nat} (h : b ≠ a) :
    (s.store a v).load b = s.load b := by
  simp [State.load_eq, Memory.read_write, h]

/-! ### the canonical form -/

theorem Memory.wfAbove_mono {m : Memory} : ∀ {lo lo' : Nat}, lo' ≤ lo → m.wfAbove lo = true → m.wfAbove lo' = true := by
  cases m with
  | nil => intros; rfl
  | cons c m =>
    obtain ⟨x, v⟩ := c
    intro lo lo' h hm
    simp only [Memory.wfAbove, Bool.and_eq_true, decide_eq_true_eq] at hm ⊢
    exact ⟨⟨h.trans hm.1.1, hm.1.2⟩, hm.2⟩

theorem Memory.wfAbove_erase {m : Memory} (a : Nat) : ∀ {lo : Nat}, m.wfAbove lo = true → (m.erase a).wfAbove lo = true := by
  induction m with
  | nil => intros; rfl
  | cons c m ih =>
    obtain ⟨x, v⟩ := c
    intro lo hm
    simp only [Memory.wfAbove, Bool.and_eq_true, decide_eq_true_eq] at hm
    by_cases hx : x = a
    · simpa [Memory.erase, hx] using Memory.wfAbove_mono (by omega) (ih hm.2)
    · simp only [Memory.erase, hx, if_false, Memory.wfAbove, Bool.and_eq_true, decide_eq_true_eq]
      exact ⟨hm.1, ih hm.2⟩

theorem Memory.wfAbove_insert {m : Memory} {a : Nat} {v : Word} (hv : v ≠ 0) (hm : ∀ c ∈ m, c.1 ≠ a) :
    ∀ {lo : Nat}, lo ≤ a → m.wfAbove lo = true → (m.insert a v).wfAbove lo = true := by
  induction m with
  | nil => intro lo h _; simpa [Memory.insert, Memory.wfAbove, h] using hv
  | cons c m ih =>
    obtain ⟨x, u⟩ := c
    intro lo h hw
    simp only [Memory.wfAbove, Bool.and_eq_true, decide_eq_true_eq] at hw
    have hx : x ≠ a := hm (x, u) (List.mem_cons_self ..)
    by_cases hlt : a < x
    · simp only [Memory.insert, hlt, if_true, Memory.wfAbove, Bool.and_eq_true, decide_eq_true_eq, bne_iff_ne]
      exact ⟨⟨h, hv⟩, ⟨hlt, by simpa using hw.1.2⟩, hw.2⟩
    · simp only [Memory.insert, hlt, if_false, Memory.wfAbove, Bool.and_eq_true, decide_eq_true_eq]
      exact ⟨hw.1, ih (fun c hc => hm c (List.mem_cons_of_mem _ hc)) (by omega) hw.2⟩

/-- A write keeps the canonical form. -/
theorem Memory.wf_write {m : Memory} (h : m.wf = true) (a : Nat) (v : Word) : (m.write a v).wf = true := by
  unfold Memory.write Memory.wf
  split
  · exact Memory.wfAbove_erase a h
  · next hv => exact Memory.wfAbove_insert hv (Memory.not_mem_erase m a) (Nat.zero_le a) (Memory.wfAbove_erase a h)

/-- Placing words keeps the canonical form. -/
theorem Memory.wf_place (ws : List Word) : ∀ {m : Memory} (a : Nat), m.wf = true → (m.place a ws).wf = true := by
  induction ws with
  | nil => intro m a h; exact h
  | cons w ws ih =>
    intro m a h
    unfold Memory.place
    split
    · exact ih (a + 1) (Memory.wf_write h a w)
    · exact h

/-! ### the address range -/

theorem Memory.inRange_erase {m : Memory} (a : Nat) (h : m.inRange = true) : (m.erase a).inRange = true := by
  induction m with
  | nil => rfl
  | cons c m ih =>
    obtain ⟨x, v⟩ := c
    simp only [Memory.inRange, List.all_cons, Bool.and_eq_true] at h
    by_cases hx : x = a
    · simpa [Memory.erase, hx] using ih h.2
    · simp only [Memory.erase, hx, if_false, Memory.inRange, List.all_cons, Bool.and_eq_true]
      exact ⟨h.1, ih h.2⟩

theorem Memory.inRange_insert {m : Memory} {a : Nat} (v : Word) (ha : a ≤ addrMax) (h : m.inRange = true) :
    (m.insert a v).inRange = true := by
  induction m with
  | nil => simp [Memory.insert, Memory.inRange, ha]
  | cons c m ih =>
    obtain ⟨x, u⟩ := c
    by_cases hlt : a < x
    · simp only [Memory.insert, hlt, if_true, Memory.inRange, List.all_cons, Bool.and_eq_true, decide_eq_true_eq]
      exact ⟨ha, by simpa [Memory.inRange] using h⟩
    · simp only [Memory.inRange, List.all_cons, Bool.and_eq_true] at h
      simp only [Memory.insert, hlt, if_false, Memory.inRange, List.all_cons, Bool.and_eq_true]
      exact ⟨h.1, ih h.2⟩

/-- A write at a valid address keeps every listed address valid. -/
theorem Memory.inRange_write {m : Memory} (h : m.inRange = true) {a : Nat} (ha : a ≤ addrMax) (v : Word) :
    (m.write a v).inRange = true := by
  unfold Memory.write
  split
  · exact Memory.inRange_erase a h
  · exact Memory.inRange_insert v ha (Memory.inRange_erase a h)

/-- Placing words keeps every listed address valid. -/
theorem Memory.inRange_place (ws : List Word) :
    ∀ {m : Memory} (a : Nat), m.inRange = true → (m.place a ws).inRange = true := by
  induction ws with
  | nil => intro m a h; exact h
  | cons w ws ih =>
    intro m a h
    unfold Memory.place
    split
    · next ha => exact ih (a + 1) (Memory.inRange_write h ha w)
    · exact h

/-- The memory after reset has the canonical form. -/
theorem State.reset_mem_wf : State.reset.mem.wf = true := rfl

end Sys2Proof.Machine
end

