-- ==== Sys2Proof/Laws/Operands.lean ====
section
/-!
SUPPORT. What the address checks, the resolver and `toWord` can answer.
-/

namespace Sys2Proof.Machine

theorem validAddress_iff {a : Int} : validAddress a = true ↔ 0 ≤ a ∧ a ≤ wordMax := by
  simp [validAddress]

theorem checkAddress_of_valid {a : Int} (h0 : 0 ≤ a) (h1 : a ≤ wordMax) : checkAddress a = .ok a.toNat :=
  if_pos (validAddress_iff.mpr ⟨h0, h1⟩)

theorem checkAddress_of_invalid {a : Int} (h : ¬ (0 ≤ a ∧ a ≤ wordMax)) :
    checkAddress a = .error { cause := .invalidAddress, info := a } :=
  if_neg fun hv => h (validAddress_iff.mp hv)

theorem checkAddress_ok {a : Int} {n : Nat} (h : checkAddress a = .ok n) :
    0 ≤ a ∧ a ≤ wordMax ∧ n = a.toNat ∧ n ≤ addrMax := by
  by_cases hv : 0 ≤ a ∧ a ≤ wordMax
  · rw [checkAddress_of_valid hv.1 hv.2] at h
    injection h with h
    have h1 : a ≤ 9223372036854775807 := hv.2
    exact ⟨hv.1, hv.2, h.symm, show n ≤ 9223372036854775807 by omega⟩
  · rw [checkAddress_of_invalid hv] at h; cases h

theorem checkAddress_error {a : Int} {r : Raised} (h : checkAddress a = .error r) :
    ¬ (0 ≤ a ∧ a ≤ wordMax) ∧ r = { cause := .invalidAddress, info := a } := by
  by_cases hv : 0 ≤ a ∧ a ≤ wordMax
  · rw [checkAddress_of_valid hv.1 hv.2] at h; cases h
  · rw [checkAddress_of_invalid hv] at h
    injection h with h
    exact ⟨hv, h.symm⟩

theorem checkLimit_ok {l : Option Nat} {a n : Nat} (h : checkLimit l a = .ok n) :
    n = a ∧ ∀ k, l = some k → a < k := by
  cases l with
  | none => cases h; simp
  | some k =>
    simp only [checkLimit] at h
    split at h
    · cases h; simpa
    · cases h

theorem checkLimit_error {l : Option Nat} {a : Nat} {r : Raised} (h : checkLimit l a = .error r) :
    (∃ k, l = some k ∧ k ≤ a) ∧ r = { cause := .capacityExceeded, info := a } := by
  cases l with
  | none => cases h
  | some k =>
    simp only [checkLimit] at h
    split at h
    · cases h
    · next hk => cases h; exact ⟨⟨k, rfl, by omega⟩, rfl⟩

theorem paramWord_ok {s : State} {k : Nat} {w : Word} (h : paramWord s k = .ok w) :
    s.ip + k ≤ addrMax ∧ w = s.load (s.ip + k) := by
  unfold paramWord at h
  split at h
  · next hk => cases h; exact ⟨hk, rfl⟩
  · cases h

theorem paramWord_error {s : State} {k : Nat} {r : Raised} (h : paramWord s k = .error r) :
    addrMax < s.ip + k ∧ r = { cause := .invalidAddress, info := ((s.ip + k : Nat) : Int) } := by
  unfold paramWord at h
  split at h
  · cases h
  · next hk => cases h; exact ⟨by omega, rfl⟩

/-- A source parameter faults only on an address (R53). -/
theorem src_error_cause {s : State} {m : Mode} {k : Nat} {r : Raised} (h : src s m k = .error r) :
    r.cause = .invalidAddress := by
  unfold src at h
  split at h
  · next hp => cases h; rw [(paramWord_error hp).2]
  · cases m <;> simp only at h
    · split at h
      · next hc => cases h; rw [(checkAddress_error hc).2]
      · cases h
    · cases h
    · split at h
      · next hc => cases h; rw [(checkAddress_error hc).2]
      · cases h

theorem destinationAddress_ok {s : State} {x : Int} {a : Nat} (h : destinationAddress s x = .ok a) :
    a ≤ addrMax ∧ ∀ l, s.cfg.addrLimit = some l → a < l := by
  unfold destinationAddress at h
  split at h
  · cases h
  · next hc =>
    obtain ⟨rfl, hl⟩ := checkLimit_ok h
    exact ⟨(checkAddress_ok hc).2.2.2, hl⟩

/-- The address a destination resolves to is valid and below the write limit (R33, R34, R54). -/
theorem dst_ok {s : State} {m : Mode} {k a : Nat} (h : dst s m k = .ok a) :
    a ≤ addrMax ∧ ∀ l, s.cfg.addrLimit = some l → a < l := by
  cases m <;> simp only [dst] at h
  · split at h
    · cases h
    · exact destinationAddress_ok h
  · cases h
  · split at h
    · cases h
    · exact destinationAddress_ok h

theorem destinationAddress_error_cause {s : State} {x : Int} {r : Raised} (h : destinationAddress s x = .error r) :
    r.cause = .invalidAddress ∨ (r.cause = .capacityExceeded ∧ s.cfg.addrLimit ≠ none) := by
  unfold destinationAddress at h
  split at h
  · next hc => cases h; rw [(checkAddress_error hc).2]; exact .inl rfl
  · obtain ⟨⟨k, hk, -⟩, rfl⟩ := checkLimit_error h
    exact .inr ⟨rfl, by simp [hk]⟩

/-- A destination parameter faults on an address or on the write limit; on a mode only when it is immediate (R54). -/
theorem dst_error_cause {s : State} {m : Mode} {k : Nat} {r : Raised} (h : dst s m k = .error r) :
    r.cause = .invalidAddress ∨ (r.cause = .capacityExceeded ∧ s.cfg.addrLimit ≠ none) ∨
      (r.cause = .immediateDestination ∧ m = .immediate) := by
  cases m <;> simp only [dst] at h
  · split at h
    · next hp => cases h; rw [(paramWord_error hp).2]; exact .inl rfl
    · rcases destinationAddress_error_cause h with h | h
      · exact .inl h
      · exact .inr (.inl h)
  · cases h; exact .inr (.inr ⟨rfl, rfl⟩)
  · split at h
    · next hp => cases h; rw [(paramWord_error hp).2]; exact .inl rfl
    · rcases destinationAddress_error_cause h with h | h
      · exact .inl h
      · exact .inr (.inl h)

theorem sources_ok_iff {s : State} {m1 m2 : Mode} {v1 v2 : Word} :
    sources s m1 m2 = .ok (v1, v2) ↔ src s m1 1 = .ok v1 ∧ src s m2 2 = .ok v2 := by
  unfold sources
  cases src s m1 1 with
  | error r => simp
  | ok x => cases src s m2 2 <;> simp

theorem sources_error_iff {s : State} {m1 m2 : Mode} {r : Raised} :
    sources s m1 m2 = .error r ↔ src s m1 1 = .error r ∨ ∃ v1, src s m1 1 = .ok v1 ∧ src s m2 2 = .error r := by
  unfold sources
  cases src s m1 1 with
  | error r => simp
  | ok x => cases src s m2 2 <;> simp

theorem sourcesAndDestination_ok_iff {s : State} {m1 m2 m3 : Mode} {v1 v2 : Word} {a : Nat} :
    sourcesAndDestination s m1 m2 m3 = .ok (v1, v2, a) ↔
      src s m1 1 = .ok v1 ∧ src s m2 2 = .ok v2 ∧ dst s m3 3 = .ok a := by
  unfold sourcesAndDestination sources
  cases src s m1 1 with
  | error r => simp
  | ok x =>
    cases src s m2 2 with
    | error r => simp
    | ok y => cases dst s m3 3 <;> simp

theorem sourcesAndDestination_error_iff {s : State} {m1 m2 m3 : Mode} {r : Raised} :
    sourcesAndDestination s m1 m2 m3 = .error r ↔
      (src s m1 1 = .error r ∨ ∃ v1, src s m1 1 = .ok v1 ∧ src s m2 2 = .error r) ∨
        ∃ v1 v2, src s m1 1 = .ok v1 ∧ src s m2 2 = .ok v2 ∧ dst s m3 3 = .error r := by
  unfold sourcesAndDestination sources
  cases src s m1 1 with
  | error r => simp
  | ok x =>
    cases src s m2 2 with
    | error r => simp
    | ok y => cases dst s m3 3 <;> simp

/-- Under wrap `toWord` always answers (R11). -/
theorem toWord_wrap (x : Int) : toWord .wrap x = .ok (BitVec.ofInt 64 x) := by
  unfold toWord; split <;> rfl

/-- `toWord` answers only the word of `x`, and faults only under fault, out of range, with `x` (R11). -/
theorem toWord_error {o : Overflow} {x : Int} {r : Raised} (h : toWord o x = .error r) :
    o = .fault ∧ inWordRange x = false ∧ r = { cause := .arithmeticOverflow, info := x } := by
  unfold toWord at h
  split at h
  · cases h
  · next hx =>
    cases o with
    | wrap => cases h
    | fault => cases h; exact ⟨rfl, by simpa using hx, rfl⟩

theorem toWord_ok {o : Overflow} {x : Int} {w : Word} (h : toWord o x = .ok w) : w = BitVec.ofInt 64 x := by
  unfold toWord at h
  split at h
  · cases h; rfl
  · cases o <;> cases h; rfl

end Sys2Proof.Machine
end

