-- ==== Sys2Proof/Laws/Effects.lean ====
section
/-!
SUPPORT. What each shared effect can do: if it answers a state, how that state was made; if it faults, why.
-/

namespace Sys2Proof.Machine

/-- Every instruction ends in a next state: its effect, or the fault it raised. -/
theorem settle_next {s t : State} {e : Except Raised State} :
    settle s e = .next t ↔ e = .ok t ∨ ∃ r, e = .error r ∧ t = s.raise r := by
  cases e with
  | error r => simp [settle, eq_comm]
  | ok u => simp [settle]

theorem arithmetic_ok {f : Int → Int → Int} {s t : State} {m1 m2 m3 : Mode} (h : arithmetic f s m1 m2 m3 = .ok t) :
    ∃ v1 v2 a r, sourcesAndDestination s m1 m2 m3 = .ok (v1, v2, a) ∧
      toWord s.cfg.overflow (f v1.toInt v2.toInt) = .ok r ∧ t = (s.store a r).advance 4 := by
  unfold arithmetic at h
  split at h
  · cases h
  · next v1 v2 a hr =>
    split at h
    · cases h
    · next r hw => cases h; exact ⟨v1, v2, a, r, hr, hw, rfl⟩

theorem arithmetic_error {f : Int → Int → Int} {s : State} {m1 m2 m3 : Mode} {r : Raised}
    (h : arithmetic f s m1 m2 m3 = .error r) :
    sourcesAndDestination s m1 m2 m3 = .error r ∨ ∃ v1 v2 a, sourcesAndDestination s m1 m2 m3 = .ok (v1, v2, a) ∧
      toWord s.cfg.overflow (f v1.toInt v2.toInt) = .error r := by
  unfold arithmetic at h
  split at h
  · next hr => cases h; exact .inl hr
  · next v1 v2 a hr =>
    split at h
    · next hw => cases h; exact .inr ⟨v1, v2, a, hr, hw⟩
    · cases h

theorem comparison_ok {p : Int → Int → Bool} {s t : State} {m1 m2 m3 : Mode} (h : comparison p s m1 m2 m3 = .ok t) :
    ∃ v1 v2 a, sourcesAndDestination s m1 m2 m3 = .ok (v1, v2, a) ∧
      t = (s.store a (truthWord (p v1.toInt v2.toInt))).advance 4 := by
  unfold comparison at h
  split at h
  · cases h
  · next v1 v2 a hr => cases h; exact ⟨v1, v2, a, hr, rfl⟩

theorem comparison_error {p : Int → Int → Bool} {s : State} {m1 m2 m3 : Mode} {r : Raised}
    (h : comparison p s m1 m2 m3 = .error r) : sourcesAndDestination s m1 m2 m3 = .error r := by
  unfold comparison at h
  split at h
  · next hr => cases h; exact hr
  · cases h

theorem jump_ok {p : Word → Bool} {s t : State} {m1 m2 : Mode} (h : jump p s m1 m2 = .ok t) :
    ∃ v1 v2, sources s m1 m2 = .ok (v1, v2) ∧
      ((p v1 = true ∧ 0 ≤ v2.toInt ∧ t = s.setIp v2.toInt.toNat) ∨ (p v1 = false ∧ t = s.advance 3)) := by
  unfold jump at h
  split at h
  · cases h
  · next v1 v2 hr =>
    refine ⟨v1, v2, hr, ?_⟩
    split at h
    · next hp =>
      split at h
      · cases h
      · cases h; exact .inl ⟨hp, by omega, rfl⟩
    · next hp => cases h; exact .inr ⟨by simpa using hp, rfl⟩

theorem jump_error {p : Word → Bool} {s : State} {m1 m2 : Mode} {r : Raised} (h : jump p s m1 m2 = .error r) :
    sources s m1 m2 = .error r ∨ ∃ v1 v2, sources s m1 m2 = .ok (v1, v2) ∧ p v1 = true ∧ v2.toInt < 0 ∧
      r = { cause := .invalidAddress, info := v2.toInt } := by
  unfold jump at h
  split at h
  · next hr => cases h; exact .inl hr
  · next v1 v2 hr =>
    split at h
    · next hp =>
      split at h
      · next hn => cases h; exact .inr ⟨v1, v2, hr, hp, hn, rfl⟩
      · cases h
    · cases h

theorem adjustBase_ok {s t : State} {m1 : Mode} (h : adjustBaseEffect s m1 = .ok t) :
    ∃ v1 b, src s m1 1 = .ok v1 ∧ toWord s.cfg.overflow (s.rb.toInt + v1.toInt) = .ok b ∧
      t = (s.setBase b).advance 2 := by
  unfold adjustBaseEffect at h
  split at h
  · cases h
  · next v1 hr =>
    split at h
    · cases h
    · next b hw => cases h; exact ⟨v1, b, hr, hw, rfl⟩

theorem adjustBase_error {s : State} {m1 : Mode} {r : Raised} (h : adjustBaseEffect s m1 = .error r) :
    src s m1 1 = .error r ∨ ∃ v1, src s m1 1 = .ok v1 ∧ toWord s.cfg.overflow (s.rb.toInt + v1.toInt) = .error r := by
  unfold adjustBaseEffect at h
  split at h
  · next hr => cases h; exact .inl hr
  · next v1 hr =>
    split at h
    · next hw => cases h; exact .inr ⟨v1, hr, hw⟩
    · cases h

/-- The pulse is given, or the core waits (R85). -/
theorem pulse_cases (s : State) :
    (s.cfg.readyDepth = .zero ∧ takesPulse s.host = true ∧ pulse s = (s.record .ready).setPhase .pulseDone) ∨
    (s.cfg.readyDepth = .one ∧ s.chan.readySlot = false ∧
      pulse s = { (s.record .ready).setPhase .pulseDone with chan := { s.chan with readySlot := true } }) ∨
    (pulse s = s ∧ ((s.cfg.readyDepth = .zero ∧ takesPulse s.host = false) ∨
      (s.cfg.readyDepth = .one ∧ s.chan.readySlot = true))) := by
  unfold pulse
  cases hd : s.cfg.readyDepth <;> simp only
  · cases ht : takesPulse s.host
    · simp
    · simp
  · cases ht : s.chan.readySlot
    · simp
    · simp

/-- The receive of an input completes, or the core waits (R83, R91). -/
theorem receiveInto_cases (s : State) (a : Nat) :
    (∃ v h, s.chan.dataClosed = false ∧ givesInput s.host = some (v, h) ∧
      receiveInto s a = { (((s.record (.received v)).store a v).setPhase .idle).advance 2 with host := h }) ∨
    (receiveInto s a = s ∧ (s.chan.dataClosed = true ∨ givesInput s.host = none)) := by
  unfold receiveInto recv
  cases hc : s.chan.dataClosed
  · cases hg : givesInput s.host with
    | none => simp
    | some p => exact .inl ⟨p.1, p.2, rfl, rfl, rfl⟩
  · simp

/-- A host that gives a value changes in nothing but the listed values it still has. -/
theorem givesInput_host {h h' : HostSide} {v : Word} (hg : givesInput h = some (v, h')) :
    ∃ vs, h' = { h with inputs := vs } := by
  unfold givesInput at hg
  split at hg
  · cases hg; exact ⟨h.inputs, rfl⟩
  · split at hg
    · cases hg; exact ⟨h.inputs, rfl⟩
    · next vs _ => cases hg; exact ⟨vs, rfl⟩
  all_goals cases hg

theorem input_ok {s t : State} {m1 : Mode} (h : inputEffect s m1 = .ok t) :
    ∃ a1, dst s m1 1 = .ok a1 ∧
      ((s.cfg.interactive = true ∧ s.ioPhase = .idle ∧ t = pulse s) ∨
        (¬ (s.cfg.interactive = true ∧ s.ioPhase = .idle) ∧ t = receiveInto s a1)) := by
  unfold inputEffect at h
  split at h
  · cases h
  · next a1 ha =>
    refine ⟨a1, ha, ?_⟩
    split at h
    · next hc =>
      simp only [Bool.and_eq_true, beq_iff_eq] at hc
      cases h; exact .inl ⟨hc.1, hc.2, rfl⟩
    · next hc =>
      simp only [Bool.and_eq_true, beq_iff_eq] at hc
      cases h; exact .inr ⟨hc, rfl⟩

theorem input_error {s : State} {m1 : Mode} {r : Raised} (h : inputEffect s m1 = .error r) : dst s m1 1 = .error r := by
  unfold inputEffect at h
  split at h
  · next hr => cases h; exact hr
  · split at h <;> cases h

theorem output_ok {s t : State} {m1 : Mode} (h : outputEffect s m1 = .ok t) :
    ∃ v1, src s m1 1 = .ok v1 ∧
      ((takesOutput s.host = true ∧ t = (s.record (.sent v1)).advance 2) ∨ (takesOutput s.host = false ∧ t = s)) := by
  unfold outputEffect send at h
  split at h
  · cases h
  · next v1 hv =>
    refine ⟨v1, hv, ?_⟩
    cases ht : takesOutput s.host
    · rw [ht] at h; cases h; exact .inr ⟨rfl, rfl⟩
    · rw [ht] at h; cases h; exact .inl ⟨rfl, rfl⟩

theorem output_error {s : State} {m1 : Mode} {r : Raised} (h : outputEffect s m1 = .error r) : src s m1 1 = .error r := by
  unfold outputEffect send at h
  split at h
  · next hr => cases h; exact hr
  · split at h <;> cases h

/-- Everything an instruction can do: it raises a fault; or its own effect, which is one of these. -/
theorem exec_cases {i : Instr} {s t : State} (h : exec i s = .next t) :
    (∃ r, t = s.raise r) ∨
    (∃ m1 m2 m3 v1 v2 a v, (i = .add m1 m2 m3 ∨ i = .mul m1 m2 m3 ∨ i = .lessThan m1 m2 m3 ∨ i = .equals m1 m2 m3) ∧
      sourcesAndDestination s m1 m2 m3 = .ok (v1, v2, a) ∧ t = (s.store a v).advance 4) ∨
    (∃ m1 a1, i = .input m1 ∧ dst s m1 1 = .ok a1 ∧ s.cfg.interactive = true ∧ s.ioPhase = .idle ∧ t = pulse s) ∨
    (∃ m1 a1, i = .input m1 ∧ dst s m1 1 = .ok a1 ∧ ¬ (s.cfg.interactive = true ∧ s.ioPhase = .idle) ∧
      t = receiveInto s a1) ∨
    (∃ m1 v1, i = .output m1 ∧ src s m1 1 = .ok v1 ∧
      ((takesOutput s.host = true ∧ t = (s.record (.sent v1)).advance 2) ∨ (takesOutput s.host = false ∧ t = s))) ∨
    (∃ m1 m2 v1 v2, (i = .jumpIfTrue m1 m2 ∨ i = .jumpIfFalse m1 m2) ∧ sources s m1 m2 = .ok (v1, v2) ∧
      ((0 ≤ v2.toInt ∧ t = s.setIp v2.toInt.toNat) ∨ t = s.advance 3)) ∨
    (∃ m1 v1 b, i = .adjustBase m1 ∧ src s m1 1 = .ok v1 ∧ t = (s.setBase b).advance 2) ∨
    (i = .halt ∧ t = { closeAll s with run := .halted }) := by
  have arith : ∀ {f m1 m2 m3}, settle s (arithmetic f s m1 m2 m3) = .next t →
      (∃ r, t = s.raise r) ∨ ∃ v1 v2 a v, sourcesAndDestination s m1 m2 m3 = .ok (v1, v2, a) ∧
        t = (s.store a v).advance 4 := by
    intro f m1 m2 m3 h
    rcases settle_next.mp h with h | ⟨r, -, h⟩
    · obtain ⟨v1, v2, a, r, hr, -, ht⟩ := arithmetic_ok h
      exact .inr ⟨v1, v2, a, r, hr, ht⟩
    · exact .inl ⟨r, h⟩
  have comp : ∀ {p m1 m2 m3}, settle s (comparison p s m1 m2 m3) = .next t →
      (∃ r, t = s.raise r) ∨ ∃ v1 v2 a v, sourcesAndDestination s m1 m2 m3 = .ok (v1, v2, a) ∧
        t = (s.store a v).advance 4 := by
    intro p m1 m2 m3 h
    rcases settle_next.mp h with h | ⟨r, -, h⟩
    · obtain ⟨v1, v2, a, hr, ht⟩ := comparison_ok h
      exact .inr ⟨v1, v2, a, _, hr, ht⟩
    · exact .inl ⟨r, h⟩
  have jmp : ∀ {p m1 m2}, settle s (jump p s m1 m2) = .next t →
      (∃ r, t = s.raise r) ∨ ∃ v1 v2, sources s m1 m2 = .ok (v1, v2) ∧
        ((0 ≤ v2.toInt ∧ t = s.setIp v2.toInt.toNat) ∨ t = s.advance 3) := by
    intro p m1 m2 h
    rcases settle_next.mp h with h | ⟨r, -, h⟩
    · obtain ⟨v1, v2, hr, ⟨-, h0, ht⟩ | ⟨-, ht⟩⟩ := jump_ok h
      · exact .inr ⟨v1, v2, hr, .inl ⟨h0, ht⟩⟩
      · exact .inr ⟨v1, v2, hr, .inr ht⟩
    · exact .inl ⟨r, h⟩
  cases i with
  | add m1 m2 m3 =>
    rcases arith h with h | ⟨v1, v2, a, v, h⟩
    · exact .inl h
    · exact .inr (.inl ⟨m1, m2, m3, v1, v2, a, v, .inl rfl, h⟩)
  | mul m1 m2 m3 =>
    rcases arith h with h | ⟨v1, v2, a, v, h⟩
    · exact .inl h
    · exact .inr (.inl ⟨m1, m2, m3, v1, v2, a, v, .inr (.inl rfl), h⟩)
  | lessThan m1 m2 m3 =>
    rcases comp h with h | ⟨v1, v2, a, v, h⟩
    · exact .inl h
    · exact .inr (.inl ⟨m1, m2, m3, v1, v2, a, v, .inr (.inr (.inl rfl)), h⟩)
  | equals m1 m2 m3 =>
    rcases comp h with h | ⟨v1, v2, a, v, h⟩
    · exact .inl h
    · exact .inr (.inl ⟨m1, m2, m3, v1, v2, a, v, .inr (.inr (.inr rfl)), h⟩)
  | input m1 =>
    rcases settle_next.mp h with h | ⟨r, -, h⟩
    · obtain ⟨a1, ha, ⟨hi, hp, ht⟩ | ⟨hn, ht⟩⟩ := input_ok h
      · exact .inr (.inr (.inl ⟨m1, a1, rfl, ha, hi, hp, ht⟩))
      · exact .inr (.inr (.inr (.inl ⟨m1, a1, rfl, ha, hn, ht⟩)))
    · exact .inl ⟨r, h⟩
  | output m1 =>
    rcases settle_next.mp h with h | ⟨r, -, h⟩
    · obtain ⟨v1, hv, ht⟩ := output_ok h
      exact .inr (.inr (.inr (.inr (.inl ⟨m1, v1, rfl, hv, ht⟩))))
    · exact .inl ⟨r, h⟩
  | jumpIfTrue m1 m2 =>
    rcases jmp h with h | ⟨v1, v2, h⟩
    · exact .inl h
    · exact .inr (.inr (.inr (.inr (.inr (.inl ⟨m1, m2, v1, v2, .inl rfl, h⟩)))))
  | jumpIfFalse m1 m2 =>
    rcases jmp h with h | ⟨v1, v2, h⟩
    · exact .inl h
    · exact .inr (.inr (.inr (.inr (.inr (.inl ⟨m1, m2, v1, v2, .inr rfl, h⟩)))))
  | adjustBase m1 =>
    rcases settle_next.mp h with h | ⟨r, -, h⟩
    · obtain ⟨v1, b, hv, -, ht⟩ := adjustBase_ok h
      exact .inr (.inr (.inr (.inr (.inr (.inr (.inl ⟨m1, v1, b, rfl, hv, ht⟩))))))
    · exact .inl ⟨r, h⟩
  | halt =>
    injection h with h
    exact .inr (.inr (.inr (.inr (.inr (.inr (.inr ⟨rfl, h.symm⟩))))))

end Sys2Proof.Machine
end

