-- ==== Sys2Proof/Laws/PerInstr.lean ====
section
/-!
SUPPORT. One fact for every instruction, by constructor: the number of its word holds its opcode in the low two digits and
its modes in the digits above, and its width is one word and a parameter word for each mode (R49, R50, R63).
-/

namespace Sys2Proof.Laws

/-- The digits of an instruction's word, and its width. -/
def WordDigits.Statement (i : Instr) : Prop :=
  encodeNat i % 100 = i.opcode ∧ encodeNat i / 100 = modeDigits i.modes ∧ encodeNat i < 100000 ∧
    i.width = 1 + i.modes.length

theorem WordDigits.add (m1 m2 m3 : Mode) : WordDigits.Statement (.add m1 m2 m3) := by
  unfold WordDigits.Statement; cases m1 <;> cases m2 <;> cases m3 <;> decide

theorem WordDigits.mul (m1 m2 m3 : Mode) : WordDigits.Statement (.mul m1 m2 m3) := by
  unfold WordDigits.Statement; cases m1 <;> cases m2 <;> cases m3 <;> decide

theorem WordDigits.input (m1 : Mode) : WordDigits.Statement (.input m1) := by
  unfold WordDigits.Statement; cases m1 <;> decide

theorem WordDigits.output (m1 : Mode) : WordDigits.Statement (.output m1) := by
  unfold WordDigits.Statement; cases m1 <;> decide

theorem WordDigits.jumpIfTrue (m1 m2 : Mode) : WordDigits.Statement (.jumpIfTrue m1 m2) := by
  unfold WordDigits.Statement; cases m1 <;> cases m2 <;> decide

theorem WordDigits.jumpIfFalse (m1 m2 : Mode) : WordDigits.Statement (.jumpIfFalse m1 m2) := by
  unfold WordDigits.Statement; cases m1 <;> cases m2 <;> decide

theorem WordDigits.lessThan (m1 m2 m3 : Mode) : WordDigits.Statement (.lessThan m1 m2 m3) := by
  unfold WordDigits.Statement; cases m1 <;> cases m2 <;> cases m3 <;> decide

theorem WordDigits.equals (m1 m2 m3 : Mode) : WordDigits.Statement (.equals m1 m2 m3) := by
  unfold WordDigits.Statement; cases m1 <;> cases m2 <;> cases m3 <;> decide

theorem WordDigits.adjustBase (m1 : Mode) : WordDigits.Statement (.adjustBase m1) := by
  unfold WordDigits.Statement; cases m1 <;> decide

theorem WordDigits.halt : WordDigits.Statement .halt := by
  unfold WordDigits.Statement; decide

end Sys2Proof.Laws
end

