-- ==== Sys2Proof/Laws/Step.lean ====
section
/-!
SUPPORT. Everything a step of the host alone, a fetch and a step of the system can do.
-/

namespace Sys2Proof.Machine

/-- The host's own steps: it reads a closed channel, or takes a buffered pulse. -/
theorem hostStep_cases {s t : State} (h : hostStep s = some t) :
    (hostMove s.host = .recvData ∧ s.chan.dataClosed = true ∧ t = readClosedData s) ∨
    (hostMove s.host = .recvReady ∧ s.chan.readyClosed = true ∧ t = readClosedReady s) ∨
    ((hostMove s.host = .recvReady ∨ hostMove s.host = .serve) ∧ s.chan.readyClosed = false ∧
      s.chan.readySlot = true ∧ t = takeBufferedPulse s) := by
  unfold hostStep at h
  split at h
  · next hm =>
    split at h
    · next hc => cases h; exact .inl ⟨hm, hc, rfl⟩
    · cases h
  · next hm =>
    split at h
    · next hc => cases h; exact .inr (.inl ⟨hm, hc, rfl⟩)
    · next hc =>
      split at h
      · next hs => cases h; exact .inr (.inr ⟨.inl hm, by simpa using hc, hs, rfl⟩)
      · cases h
  · next hm =>
    split at h
    · next hc =>
      simp only [Bool.and_eq_true, Bool.not_eq_true'] at hc
      cases h; exact .inr (.inr ⟨.inr hm, hc.2, hc.1, rfl⟩)
    · cases h
  · cases h
  · cases h

/-- The read of the closed readiness channel changes the host's side, and the trace only when the pulse is given: at the
first read, with a pulse still buffered. -/
theorem readClosedReady_cases (s : State) :
    (s.chan.readySlot = true ∧ s.host.readyRead = false ∧ readClosedReady s =
      { s.record .readyTaken with host := { s.host with lastRead := some .pulse, readyRead := true } }) ∨
    readClosedReady s = { s with host := { s.host with lastRead := some .eos, readyRead := true } } := by
  unfold readClosedReady
  split
  · next h =>
    simp only [Bool.and_eq_true, Bool.not_eq_true'] at h
    exact .inl ⟨h.1.1, h.1.2, rfl⟩
  · exact .inr rfl

theorem fetch_ok {s : State} {i : Instr} (h : fetch s = .ok i) :
    s.ip ≤ addrMax ∧ decode s.cfg.strictUnusedModes (s.load s.ip) = .ok i := by
  unfold fetch at h
  split at h
  · next hip =>
    split at h
    · cases h
    · next hd => cases h; exact ⟨hip, hd⟩
  · cases h

theorem fetch_error {s : State} {r : Raised} (h : fetch s = .error r) :
    (addrMax < s.ip ∧ r = { cause := .invalidAddress, info := (s.ip : Int) }) ∨
    (s.ip ≤ addrMax ∧ ∃ c, decode s.cfg.strictUnusedModes (s.load s.ip) = .error c ∧
      r = { cause := c, info := (s.load s.ip).toInt }) := by
  unfold fetch at h
  split at h
  · next hip =>
    split at h
    · next c hd => cases h; exact .inr ⟨hip, c, hd, rfl⟩
    · cases h
  · next hip => cases h; exact .inl ⟨by omega, rfl⟩

theorem stopped_eq_none {s : State} : stopped s = none ↔ s.run = .running := by
  unfold stopped; cases s.run <;> simp

/-- Everything a step can be (R67): a step of the host alone, a fault of fetch or decode, or one instruction. -/
theorem step_cases {s t : State} (h : step s = .next t) :
    (∃ u, hostStep s = some u ∧ t = tick u) ∨
    (hostStep s = none ∧ s.run = .running ∧
      ((∃ r, fetch s = .error r ∧ t = tick (s.raise r)) ∨
        ∃ i u, fetch s = .ok i ∧ exec i s = .next u ∧ t = tick u)) := by
  unfold step at h
  split at h
  · next u hu => cases h; exact .inl ⟨u, hu, rfl⟩
  · next hn =>
    split at h
    · cases h
    · next hs =>
      refine .inr ⟨hn, stopped_eq_none.mp hs, ?_⟩
      split at h
      · next r hr => cases h; exact .inl ⟨r, hr, rfl⟩
      · next i hi =>
        split at h
        · next u hu => cases h; exact .inr ⟨i, u, hi, hu, rfl⟩
        · cases h
        · cases h

end Sys2Proof.Machine
end

