-- ==== Sys2Proof/Tests/Slice0.lean ====
section
/-!
SUPPORT. Tests. Expected results are copied from spec/ (95_test_vectors.md and the examples of the rules), never from the model.
First the well-formedness smoke, then decoding of words written out from the encodings, then one-step vectors, then a
witness for the hypotheses of each statement.
-/

namespace Sys2Proof.Tests

open Sys2Proof Sys2Proof.Machine

/-- The program's words at address 0, in this hardware's configuration. -/
def boot (program : List Int) : State := State.resetWith Config.standard (program.map (BitVec.ofInt 64))

/-- The same under another configuration. -/
def bootWith (cfg : Config) (program : List Int) : State := State.resetWith cfg (program.map (BitVec.ofInt 64))

def strictCfg : Config := { Config.standard with strictUnusedModes := true }
def faultCfg : Config := { Config.standard with overflow := .fault }
def limitCfg : Config := { Config.standard with addrLimit := some 100 }
def interactiveCfg : Config := { Config.standard with interactive := true }
def depthOneCfg : Config := { interactiveCfg with readyDepth := .one }

/-- The state with another host move in this step. -/
def facing (m : HostMove) (s : State) : State := { s with host := { s.host with schedule := [m] } }

/-- The state with another relative base. -/
def based (b : Int) (s : State) : State := { s with rb := BitVec.ofInt 64 b }

/-- The next state of an outcome, if it is one. -/
def nextOf : Host.Outcome State Fault Refusal → Option State
  | .next t => some t
  | .fault _ => none
  | .refused _ => none

/-- The fault record after one step, as `(cause, fault_ip, info)`, where there is one. -/
def faultAfter (s : State) : Option FaultRecord :=
  match nextOf (step s) with
  | none => none
  | some t => t.fault

/-- `ip` and one memory word after one step. -/
def after (a : Nat) (s : State) : Option (Nat × Int) := (nextOf (step s)).map fun t => (t.ip, (t.load a).toInt)

/-! ### well-formedness: every check refuses an ill-formed term -/

theorem test_wf_add : (Instr.add .position .position .immediate).wellFormed = false := by decide
theorem test_wf_mul : (Instr.mul .position .position .immediate).wellFormed = false := by decide
theorem test_wf_input : (Instr.input .immediate).wellFormed = false := by decide
theorem test_wf_lessThan : (Instr.lessThan .relative .relative .immediate).wellFormed = false := by decide
theorem test_wf_equals : (Instr.equals .immediate .immediate .immediate).wellFormed = false := by decide
theorem test_wf_sources_free : (Instr.jumpIfTrue .immediate .immediate).wellFormed = true := by decide

/-! ### decoding, words from R63, the encoding examples and sections 2.1 to 2.7 of 95_test_vectors.md -/

theorem test_decode_add : decode false 21101 = .ok (.add .immediate .immediate .relative) := rfl
theorem test_decode_mul : decode false 1002 = .ok (.mul .position .immediate .position) := rfl
theorem test_decode_input : decode false 203 = .ok (.input .relative) := rfl
theorem test_decode_output : decode false 204 = .ok (.output .relative) := rfl
theorem test_decode_jumpIfTrue : decode false 2105 = .ok (.jumpIfTrue .immediate .relative) := rfl
theorem test_decode_jumpIfFalse : decode false 1006 = .ok (.jumpIfFalse .position .immediate) := rfl
theorem test_decode_lessThan : decode false 1207 = .ok (.lessThan .relative .immediate .position) := rfl
theorem test_decode_equals : decode false 1008 = .ok (.equals .position .immediate .position) := rfl
theorem test_decode_adjustBase : decode false 109 = .ok (.adjustBase .immediate) := rfl
theorem test_decode_halt : decode false 10099 = .ok .halt := rfl

theorem test_decode_zero : decode false 0 = .error .illegalOpcode := rfl
theorem test_decode_98 : decode false 98 = .error .illegalOpcode := rfl
theorem test_decode_minus_99 : decode false (BitVec.ofInt 64 (-99)) = .error .illegalOpcode := rfl
theorem test_decode_3301 : decode false 3301 = .error .illegalMode := rfl
theorem test_decode_11101 : decode false 11101 = .error .immediateDestination := rfl
theorem test_decode_31101 : decode false 31101 = .error .illegalMode := rfl
theorem test_decode_30103 : decode false 30103 = .error .immediateDestination := rfl
theorem test_decode_unused : decode false 1104 = .ok (.output .immediate) := rfl
theorem test_decode_strict : decode true 1104 = .error .illegalMode := rfl
theorem test_decode_strict_high : decode true 100001 = .error .illegalMode := rfl

/-- The table's output row has match 4: the word 4 is `output [..]` (R56). -/
theorem test_table_word : decodeTableWord 8 4 = some (.output .position) := rfl
/-- Bits above `nbits` are 0: 4 is what 8 bits of 260 leave. -/
theorem test_table_word_bits : decodeTableWord 8 260 = some (.output .position) := rfl

/-! ### one step of each instruction -/

/-- V3: `1101,100,-1,4,0`: `Mem[4] <- 99`, `ip <- 4`. -/
theorem test_add_negative : after 4 (boot [1101, 100, -1, 4, 0]) = some (4, 99) := by decide
/-- 2.2: `WORD_MAX + 1` wraps to `WORD_MIN`. -/
theorem test_add_wraps : after 5 (boot [1101, 9223372036854775807, 1, 5]) = some (4, -9223372036854775808) := by decide
/-- R79: `1002,4,3,4,33` writes 99 to address 4. -/
theorem test_mul_example : after 4 (boot [1002, 4, 3, 4, 33]) = some (4, 99) := by decide
/-- 2.2: `WORD_MIN * -1` under fault. -/
theorem test_mul_overflow : faultAfter (bootWith faultCfg [1102, -9223372036854775808, -1, 5]) =
    some { cause := .arithmeticOverflow, faultIp := 0, info := 9223372036854775808 } := by decide
/-- 2.4: `203,5` with `rb = 3` and input -42: `Mem[8] = -42`, `ip = 2`. -/
theorem test_input_relative : after 8 (facing (.sendData (BitVec.ofInt 64 (-42))) (based 3 (boot [203, 5]))) =
    some (2, -42) := by decide
/-- 2.4: `3,5` under INTERACTIVE, one step: the pulse alone. -/
theorem test_input_pulse : (nextOf (step (bootWith interactiveCfg [3, 5]))).map
    (fun t => (t.ip, t.ioPhase, t.trace)) = some (0, .pulseDone, [.ready]) := by decide
/-- 2.4: `104,-8` sends -8. -/
theorem test_output_immediate : (nextOf (step (boot [104, -8, 99]))).map (fun t => (t.ip, t.trace)) =
    some (2, [.sent (BitVec.ofInt 64 (-8))]) := by decide
/-- R76: while the host delays, the core waits at the same `ip`. -/
theorem test_output_waits : (nextOf (step (facing .delay (boot [104, -8, 99])))).map (fun t => (t.ip, t.run, t.trace)) =
    some (0, .running, []) := by decide
/-- R96: `1105,1,7` sets `ip = 7`. -/
theorem test_jumpIfTrue_taken : after 0 (boot [1105, 1, 7]) = some (7, 1105) := by decide
/-- 2.3: `1105,1,-2` faults at the jump. -/
theorem test_jumpIfTrue_negative : faultAfter (boot [1105, 1, -2]) =
    some { cause := .invalidAddress, faultIp := 0, info := -2 } := by decide
/-- R97: `1106,0,9` sets `ip = 9`. -/
theorem test_jumpIfFalse_taken : after 0 (boot [1106, 0, 9]) = some (9, 1106) := by decide
/-- R97: `1106,5,9` sets `ip = 3`. -/
theorem test_jumpIfFalse_not_taken : after 0 (boot [1106, 5, 9]) = some (3, 1106) := by decide
/-- 2.2: `1107,-1,0,5`: the comparison is signed. -/
theorem test_lessThan_signed : after 5 (boot [1107, -1, 0, 5]) = some (4, 1) := by decide
/-- 2.2: `1107,4,4,5`: equal operands give 0. -/
theorem test_lessThan_strict : after 5 (boot [1107, 4, 4, 5, 0, 7]) = some (4, 0) := by decide
/-- 2.2: `1108,-5,-5,5`. -/
theorem test_equals_true : after 5 (boot [1108, -5, -5, 5]) = some (4, 1) := by decide
/-- 2.2: `1108,-5,5,5`. -/
theorem test_equals_false : after 5 (boot [1108, -5, 5, 5, 0, 7]) = some (4, 0) := by decide
/-- 2.5: `209,-1` with `rb = 4` and `Mem[3] = 10`: `rb = 14`, the old base read. -/
theorem test_adjustBase_relative : (nextOf (step (based 4 (boot [209, -1, 0, 10])))).map
    (fun t => (t.ip, t.rb.toInt)) = some (2, 14) := by decide
/-- 2.5: `109,1` at `rb = WORD_MAX` under wrap gives `WORD_MIN`. -/
theorem test_adjustBase_wraps : (nextOf (step (based 9223372036854775807 (boot [109, 1])))).map
    (fun t => (t.ip, t.rb.toInt)) = some (2, -9223372036854775808) := by decide
/-- 2.6: `99`: Halted, `ip = 0`, trace CLOSE. -/
theorem test_halt : (nextOf (step (boot [99]))).map (fun t => (t.run, t.ip, t.trace, t.chan.dataClosed)) =
    some (.halted, 0, [.close], true) := by decide
/-- 2.6: `199` under STRICT_UNUSED_MODES faults and records nothing. -/
theorem test_halt_strict : faultAfter (bootWith strictCfg [199]) =
    some { cause := .illegalMode, faultIp := 0, info := 199 } := by decide

/-- V1: `1,0,0,0,99`: the instruction overwrites its own word and still advances to 4. -/
theorem test_self_overwrite : after 0 (boot [1, 0, 0, 0, 99]) = some (4, 2) := by decide
/-- 2.8: `22201,0,0,0` with `rb = -1`: the first of three bad addresses is reported. -/
theorem test_first_fault : faultAfter (based (-1) (boot [22201, 0, 0, 0])) =
    some { cause := .invalidAddress, faultIp := 0, info := -1 } := by decide
/-- 2.9: `1101,7,8,1000,99` with `ADDR_LIMIT = 100`. -/
theorem test_capacity : faultAfter (bootWith limitCfg [1101, 7, 8, 1000, 99]) =
    some { cause := .capacityExceeded, faultIp := 0, info := 1000 } := by decide
/-- 2.4: `103,5` under INTERACTIVE faults before any pulse. -/
theorem test_no_pulse_before_fault : (nextOf (step (bootWith interactiveCfg [103, 5]))).map (fun t => (t.run, t.trace)) =
    some (.faulted, []) := by decide
/-- 2.4: under READY_DEPTH = 1 the pulse step posts into the buffer. -/
theorem test_pulse_posted : (nextOf (step (facing .delay (bootWith depthOneCfg [3, 5])))).map
    (fun t => (t.ip, t.ioPhase, t.chan.readySlot, t.trace)) = some (0, .pulseDone, true, [.ready]) := by decide
/-- 2.7: the empty program faults on the word 0 (R122). -/
theorem test_empty_image : faultAfter State.reset = some { cause := .illegalOpcode, faultIp := 0, info := 0 } := by decide
/-- The table's output word runs as the first instruction after reset, and sends `Mem[0] = 4`. -/
theorem test_first_instruction : (nextOf (step (State.reset.withFetchWord 8 4))).map (fun t => (t.ip, t.trace)) =
    some (2, [.sent 4]) := by decide
/-- R64: `add #100, #-1, [4]` assembles to `1101,100,-1,4`. -/
theorem test_assemble : assemble [.add (.immediate (.int 100)) (.immediate (.int (-1))) (.position (.int 4))] =
    some ([1101, 100, -1, 4].map (BitVec.ofInt 64)) := by decide

/-- R64: `[rb-n]` has mode 2 and the literal `-n`, so `output [rb-1]` is `204,-1` (the word of R92's example). -/
theorem test_assemble_base_minus : assemble [.output (.baseMinus (.int 1))] =
    some ([204, -1].map (BitVec.ofInt 64)) := by decide

/-- R64: a label stands for the address of the next word: `jump-if-true #1, #end`, `halt` at `end` is `1105,1,3,99`. -/
theorem test_assemble_label :
    assemble [.jumpIfTrue (.immediate (.int 1)) (.immediate (.label "end")), .label "end", .halt] =
      some ([1105, 1, 3, 99].map (BitVec.ofInt 64)) := by decide

/-- R122: a token above WORD_MAX is rejected. -/
theorem test_image_rejects : imageOfIntegers [1, 9223372036854775808] = none := by decide

/-! ### witnesses: for each clause of a statement, a state and operands that meet its hypotheses together -/

/-- The state at another address. -/
def atIp (a : Nat) (s : State) : State := { s with ip := a }

/-- A Halted core whose channels are closed, with a pulse still buffered. -/
def closedState : State :=
  { bootWith depthOneCfg [99] with
    run := .halted, chan := { dataClosed := true, readyClosed := true, readySlot := true }, trace := [.close] }

/-- A core that has faulted. -/
def faultedState : State := (boot [0]).raise { cause := .illegalOpcode, info := 0 }

theorem witness_encode : (Instr.add .relative .relative .relative).wellFormed = true := by decide

theorem witness_illegal_negative : (boot [-1]).ip ≤ addrMax ∧ ((boot [-1]).load 0).toInt < 0 := by decide
theorem witness_illegal_98 : (boot [98]).ip ≤ addrMax ∧
    ((boot [98]).load 0).toNat % 100 ∉ [1, 2, 3, 4, 5, 6, 7, 8, 9, 99] := by decide
theorem witness_illegal_10 : ((boot [10]).load 0).toNat % 100 ∉ [1, 2, 3, 4, 5, 6, 7, 8, 9, 99] := by decide

theorem witness_mode_first : (boot [301]).ip ≤ addrMax ∧ 0 ≤ ((boot [301]).load 0).toInt ∧
    paramTable (((boot [301]).load 0).toNat % 100) = some (3, some 3) ∧
    (∀ j, 1 ≤ j → j < 1 → ModePasses ((boot [301]).load 0).toNat (some 3) j) ∧
    2 < digit ((boot [301]).load 0).toNat 2 :=
  ⟨by decide, by decide, rfl, fun j h1 h2 => absurd h1 (by omega), by decide⟩
theorem witness_mode_destination : paramTable (((boot [11101]).load 0).toNat % 100) = some (3, some 3) ∧
    (∀ j, 1 ≤ j → j < 3 → ModePasses ((boot [11101]).load 0).toNat (some 3) j) ∧
    digit ((boot [11101]).load 0).toNat 4 = 1 := by
  refine ⟨rfl, ?_, by decide⟩
  intro j h1 h2
  obtain rfl | rfl : j = 1 ∨ j = 2 := by omega
  · exact ⟨by decide, by decide⟩
  · exact ⟨by decide, by decide⟩

theorem witness_unused_ignored : 0 ≤ (1104 : Word).toInt ∧ 0 ≤ (104 : Word).toInt ∧
    paramTable ((1104 : Word).toNat % 100) = some (1, none) ∧
    (1104 : Word).toNat % 10 ^ 3 = (104 : Word).toNat % 10 ^ 3 := by decide
theorem witness_unused_strict : (bootWith strictCfg [1104]).cfg.strictUnusedModes = true ∧
    decode false ((bootWith strictCfg [1104]).load 0) = .ok (.output .immediate) ∧
    ((bootWith strictCfg [1104]).load 0).toNat / 10 ^ 3 ≠ 0 := ⟨rfl, rfl, by decide⟩
theorem witness_unused_strict_clean : decode false ((bootWith strictCfg [104]).load 0) = .ok (.output .immediate) ∧
    ((bootWith strictCfg [104]).load 0).toNat / 10 ^ 3 = 0 := ⟨rfl, by decide⟩
theorem witness_unused_strict_error : decode false ((bootWith strictCfg [301]).load 0) = .error .illegalMode := rfl

theorem witness_param_above_top : addrMax < (atIp addrMax (boot [])).ip + 1 := by decide
theorem witness_param_at_top : (atIp 9223372036854775806 (boot [])).ip + 1 = addrMax := by decide
theorem witness_source_valid : (boot [1, 0]).ip + 1 ≤ addrMax ∧ ((boot [1, 0]).load 1).toInt = 0 ∧
    ((boot [1, 9223372036854775807]).load 1).toInt = wordMax := by decide
theorem witness_source_invalid : ¬ (0 ≤ ((boot [1, -1]).load 1).toInt) ∧
    ¬ (((boot [201, 9223372036854775807]).load 1).toInt + (based 1 (boot [])).rb.toInt ≤ wordMax) := by decide
theorem witness_destination_limit : (bootWith limitCfg [3, 100]).cfg.addrLimit = some 100 ∧
    ((100 : Nat) : Int) ≤ ((bootWith limitCfg [3, 100]).load 1).toInt ∧
    ((bootWith limitCfg [3, 99]).load 1).toInt < ((100 : Nat) : Int) := by decide

theorem witness_modes_agree : src (boot [1, 5, 6, 7]) .position 1 = src (boot [1, 5, 6, 7]) .relative 1 ∧
    src (boot [1, 5, 6, 7]) .position 2 = src (boot [1, 5, 6, 7]) .relative 2 ∧
    dst (boot [1, 5, 6, 7]) .position 3 = dst (boot [1, 5, 6, 7]) .relative 3 ∧
    dst (boot [3, 5]) .position 1 = dst (boot [3, 5]) .relative 1 := ⟨rfl, rfl, rfl, rfl⟩

theorem witness_toWord_top : wordMin ≤ (9223372036854775807 : Int) ∧ (9223372036854775807 : Int) ≤ wordMax := by decide
theorem witness_toWord_above : ¬ (wordMin ≤ (9223372036854775808 : Int) ∧ (9223372036854775808 : Int) ≤ wordMax) := by
  decide
theorem witness_commutes : src (boot [1101, 7, 6, 5, 0, 0, 7, 6]) .immediate 1 = .ok 7 ∧
    src (boot [1101, 7, 6, 5, 0, 0, 7, 6]) .immediate 2 = .ok 6 ∧
    src (boot [1101, 7, 6, 5, 0, 0, 7, 6]) .position 1 = .ok 6 ∧
    src (boot [1101, 7, 6, 5, 0, 0, 7, 6]) .position 2 = .ok 7 ∧
    dst (boot [1101, 7, 6, 5, 0, 0, 7, 6]) .position 3 = dst (boot [1101, 7, 6, 5, 0, 0, 7, 6]) .relative 3 :=
  ⟨rfl, rfl, rfl, rfl, rfl⟩
theorem witness_commutes_apart :
    ResolvesSSD (bootWith faultCfg [1101, 9223372036854775807, 1, 5]) .immediate .immediate .position
      9223372036854775807 1 5 ∧
    ResolvesSSD (bootWith faultCfg [1101, 1, 9223372036854775807, 9]) .immediate .immediate .position
      1 9223372036854775807 9 := ⟨⟨rfl, rfl, rfl⟩, ⟨rfl, rfl, rfl⟩⟩

/-- The form of `op` with immediate sources gives its result from the image `image`. -/
def Boots (op : Mode → Mode → Mode → Instr) (image : List Int) (v1 v2 r : Word) : Prop :=
  WrapGives op (boot image) v1 v2 r

theorem witness_associates : Boots .add [1101, 1, 2, 5] 1 2 3 ∧ Boots .add [1101, 3, 4, 5] 3 4 7 ∧
    Boots .add [1101, 2, 4, 5] 2 4 6 ∧ Boots .add [1101, 1, 6, 5] 1 6 7 := by
  refine ⟨?_, ?_, ?_, ?_⟩ <;>
    exact ⟨rfl, .immediate, .immediate, .position, 5, _, ⟨rfl, rfl, rfl⟩, rfl, rfl⟩
theorem witness_associates_mul : Boots .mul [1102, 2, 3, 5] 2 3 6 ∧ Boots .mul [1102, 6, 4, 5] 6 4 24 ∧
    Boots .mul [1102, 3, 4, 5] 3 4 12 ∧ Boots .mul [1102, 2, 12, 5] 2 12 24 := by
  refine ⟨?_, ?_, ?_, ?_⟩ <;>
    exact ⟨rfl, .immediate, .immediate, .position, 5, _, ⟨rfl, rfl, rfl⟩, rfl, rfl⟩

theorem witness_resolves : ResolvesSSD (boot [1101, 7, 8, 5]) .immediate .immediate .position 7 8 5 ∧
    (boot [1101, 7, 8, 5]).cfg.overflow = .wrap := ⟨⟨rfl, rfl, rfl⟩, rfl⟩
theorem witness_resolves_top : ResolvesSSD (boot [1101, 7, 8, 9223372036854775807]) .immediate .immediate .position 7 8
    addrMax := ⟨rfl, rfl, rfl⟩
theorem witness_resolves_in_range : ResolvesSSD (bootWith faultCfg [1101, 7, 8, 5]) .immediate .immediate .position 7 8 5 ∧
    wordMin ≤ (7 : Word).toInt + (8 : Word).toInt ∧ (7 : Word).toInt + (8 : Word).toInt ≤ wordMax ∧
    wordMin ≤ (7 : Word).toInt * (8 : Word).toInt ∧ (7 : Word).toInt * (8 : Word).toInt ≤ wordMax :=
  ⟨⟨rfl, rfl, rfl⟩, by decide⟩
theorem witness_add_overflow : ResolvesSSD (bootWith faultCfg [1101, 9223372036854775807, 1, 5]) .immediate .immediate
      .position 9223372036854775807 1 5 ∧ (bootWith faultCfg []).cfg.overflow = .fault ∧
    ¬ ((9223372036854775807 : Word).toInt + (1 : Word).toInt ≤ wordMax) := ⟨⟨rfl, rfl, rfl⟩, rfl, by decide⟩
theorem witness_mul_overflow : ResolvesSSD (bootWith faultCfg [1102, 4294967296, 4294967296, 5]) .immediate .immediate
      .position 4294967296 4294967296 5 ∧
    ¬ ((4294967296 : Word).toInt * (4294967296 : Word).toInt ≤ wordMax) := ⟨⟨rfl, rfl, rfl⟩, by decide⟩
theorem witness_first_fault_1 : FirstFaultSSD (boot [1, -1, 0, 0]) .position .position .position
    { cause := .invalidAddress, info := -1 } := .inl (.inl rfl)
theorem witness_first_fault_2 : FirstFaultSSD (boot [1, 0, -1, 0]) .position .position .position
    { cause := .invalidAddress, info := -1 } := .inl (.inr ⟨_, rfl, rfl⟩)
theorem witness_first_fault_3 : FirstFaultSSD (boot [1101, 1, 1, -5]) .immediate .immediate .position
    { cause := .invalidAddress, info := -5 } := .inr ⟨_, _, rfl, rfl, rfl⟩
theorem witness_first_fault_jump : FirstFaultSS (boot [5, 0, -1]) .position .position
    { cause := .invalidAddress, info := -1 } := .inr ⟨_, rfl, rfl⟩

theorem witness_adjustBase : src (boot [109, 1]) .immediate 1 = .ok 1 ∧ (boot [109, 1]).cfg.overflow = .wrap := ⟨rfl, rfl⟩
theorem witness_adjustBase_in_range : src (bootWith faultCfg [109, -4]) .immediate 1 = .ok (BitVec.ofInt 64 (-4)) ∧
    wordMin ≤ (0 : Word).toInt + (BitVec.ofInt 64 (-4) : Word).toInt := ⟨rfl, by decide⟩
theorem witness_adjustBase_overflow :
    src (based 9223372036854775807 (bootWith faultCfg [109, 1])) .immediate 1 = .ok 1 ∧
    ¬ ((based 9223372036854775807 (bootWith faultCfg [109, 1])).rb.toInt + (1 : Word).toInt ≤ wordMax) :=
  ⟨rfl, by decide⟩
theorem witness_source_fault : src (boot [9, -1]) .position 1 = .error { cause := .invalidAddress, info := -1 } := rfl

theorem witness_jump_taken : src (boot [1105, 1, 0]) .immediate 1 = .ok 1 ∧ src (boot [1105, 1, 0]) .immediate 2 = .ok 0 ∧
    (1 : Word) ≠ 0 ∧ 0 ≤ (0 : Word).toInt := ⟨rfl, rfl, by decide, by decide⟩
theorem witness_jump_negative : src (boot [1105, 1, -1]) .immediate 2 = .ok (BitVec.ofInt 64 (-1)) ∧
    (BitVec.ofInt 64 (-1) : Word).toInt < 0 := ⟨rfl, by decide⟩
theorem witness_jump_zero : src (boot [1106, 0, 9]) .immediate 1 = .ok 0 ∧ src (boot [1106, 0, 9]) .immediate 2 = .ok 9 :=
  ⟨rfl, rfl⟩

theorem witness_halt_word : 0 ≤ (199 : Word).toInt ∧ (199 : Word).toNat % 100 = 99 := by decide

theorem witness_output_served : src (boot [104, 5]) .immediate 1 = .ok 5 ∧ hostMove (boot [104, 5]).host = .serve ∧
    hostMove (facing .recvData (boot [104, 5])).host = .recvData := ⟨rfl, rfl, rfl⟩
theorem witness_output_delayed : src (facing .delay (boot [104, 5])) .immediate 1 = .ok 5 ∧
    hostMove (facing .delay (boot [104, 5])).host ≠ .recvData ∧
    hostMove (facing .delay (boot [104, 5])).host ≠ .serve := ⟨rfl, by decide, by decide⟩
theorem witness_input_pulse : dst (bootWith interactiveCfg [3, 5]) .position 1 = .ok 5 ∧
    (bootWith interactiveCfg [3, 5]).cfg.interactive = true ∧ (bootWith interactiveCfg [3, 5]).ioPhase = .idle :=
  ⟨rfl, rfl, rfl⟩
theorem witness_input_receives : dst (facing (.sendData 7) (boot [3, 5])) .position 1 = .ok 5 ∧
    (boot [3, 5]).cfg.interactive = false ∧ (boot [3, 5]).chan.dataClosed = false ∧
    givesInput (facing (.sendData 7) (boot [3, 5])).host = some (7, (facing (.sendData 7) (boot [3, 5])).host) :=
  ⟨rfl, rfl, rfl, rfl⟩
theorem witness_input_after_pulse : ((bootWith interactiveCfg [3, 5]).setPhase .pulseDone).ioPhase = .pulseDone ∧
    dst ((bootWith interactiveCfg [3, 5]).setPhase .pulseDone) .position 1 = .ok 5 := ⟨rfl, rfl⟩
theorem witness_input_waits : givesInput (facing .delay (boot [3, 5])).host = none := rfl
theorem witness_input_serves_listed : hostMove (boot [3, 5]).host = .serve ∧
    ({ (boot [3, 5]).host with inputs := [7] } : HostSide).inputs = 7 :: [] := ⟨rfl, rfl⟩
theorem witness_input_fault : dst (boot [3, -1]) .position 1 = .error { cause := .invalidAddress, info := -1 } := rfl

theorem witness_pulse_depth_zero : (bootWith interactiveCfg [3, 5]).cfg.readyDepth = .zero ∧
    hostMove (facing .recvReady (bootWith interactiveCfg [3, 5])).host = .recvReady ∧
    hostMove (facing .delay (bootWith interactiveCfg [3, 5])).host ≠ .recvReady ∧
    hostMove (facing .delay (bootWith interactiveCfg [3, 5])).host ≠ .serve := by decide
theorem witness_pulse_depth_one : (bootWith depthOneCfg [3, 5]).cfg.readyDepth = .one ∧
    (bootWith depthOneCfg [3, 5]).chan.readySlot = false ∧ (pulse (bootWith depthOneCfg [3, 5])).chan.readySlot = true ∧
    (pulse (bootWith depthOneCfg [3, 5])).chan.readyClosed = false ∧
    hostMove (pulse (bootWith depthOneCfg [3, 5])).host = .serve := by decide

theorem witness_fetch_above_top : (atIp 9223372036854775808 (boot [])).run = .running ∧
    hostStep (atIp 9223372036854775808 (boot [])) = none ∧ addrMax < (atIp 9223372036854775808 (boot [])).ip := by decide
theorem witness_decode_fault : (boot [0]).run = .running ∧ hostStep (boot [0]) = none ∧ (boot [0]).ip ≤ addrMax ∧
    decode (boot [0]).cfg.strictUnusedModes ((boot [0]).load (boot [0]).ip) = .error .illegalOpcode :=
  ⟨rfl, rfl, by decide, rfl⟩
theorem witness_faulting_step : ∃ t f, step (boot [0]) = .next t ∧ (boot [0]).run = .running ∧ t.run = .faulted ∧
    t.fault = some f ∧ (boot [0]).cfg.addrLimit = none ∧ (boot [0]).cfg.overflow = .wrap :=
  ⟨_, _, rfl, rfl, rfl, rfl, rfl, rfl⟩
theorem witness_cause : ∃ t f, exec (.add .immediate .immediate .position) (boot [1101, 1, 1, -5]) = .next t ∧
    t.run = .faulted ∧ t.fault = some f := ⟨_, _, rfl, rfl, rfl⟩
theorem witness_step_decodes : (boot [1101, 7, 8, 5]).run = .running ∧ hostStep (boot [1101, 7, 8, 5]) = none ∧
    (boot [1101, 7, 8, 5]).ip ≤ addrMax ∧ decode (boot [1101, 7, 8, 5]).cfg.strictUnusedModes
      ((boot [1101, 7, 8, 5]).load (boot [1101, 7, 8, 5]).ip) = .ok (.add .immediate .immediate .position) :=
  ⟨rfl, rfl, by decide, rfl⟩

theorem witness_stopped_halted : hostStep (facing .delay closedState) = none ∧ (facing .delay closedState).run = .halted :=
  ⟨rfl, rfl⟩
theorem witness_stopped_faulted : faultedState.run = .faulted ∧ hostStep faultedState = none := ⟨rfl, rfl⟩
theorem witness_stopped_host_reads : closedState.run ≠ .running ∧ ∃ t, step (facing .recvData closedState) = .next t :=
  ⟨by decide, _, rfl⟩
theorem witness_run_changes : ∃ t, step (boot [99]) = .next t ∧ t.run ≠ (boot [99]).run := ⟨_, rfl, by decide⟩
theorem witness_ip_changes : ∃ t, step (boot [1105, 1, 7]) = .next t ∧ t.ip ≠ (boot [1105, 1, 7]).ip := ⟨_, rfl, by decide⟩
theorem witness_base_changes : ∃ t, step (boot [109, 1]) = .next t ∧ t.rb ≠ (boot [109, 1]).rb := ⟨_, rfl, by decide⟩
theorem witness_memory_changes : ∃ t, step (boot [1101, 7, 8, 5]) = .next t ∧ t.load 5 ≠ (boot [1101, 7, 8, 5]).load 5 :=
  ⟨_, rfl, by decide⟩
theorem witness_sent : ∃ t, step (boot [104, 5]) = .next t ∧ t.trace = (boot [104, 5]).trace ++ [.sent 5] := ⟨_, rfl, rfl⟩
theorem witness_received : ∃ t, step (facing (.sendData 7) (boot [3, 5])) = .next t ∧
    t.trace = (boot [3, 5]).trace ++ [.received 7] := ⟨_, rfl, rfl⟩
theorem witness_ready : ∃ t, step (bootWith interactiveCfg [3, 5]) = .next t ∧
    t.trace = (bootWith interactiveCfg [3, 5]).trace ++ [.ready] := ⟨_, rfl, rfl⟩
theorem witness_ready_taken :
    ∃ t, step (facing .recvReady (pulse (bootWith depthOneCfg [3, 5]))) = .next t ∧
      t.trace = (pulse (bootWith depthOneCfg [3, 5])).trace ++ [.readyTaken] := ⟨_, rfl, rfl⟩
theorem witness_close : ∃ t, step (boot [99]) = .next t ∧ t.trace = (boot [99]).trace ++ [.close] := ⟨_, rfl, rfl⟩
theorem witness_host_step : ∃ t, hostStep (facing .recvData closedState) = some t := ⟨_, rfl⟩
theorem witness_halted_host_reads : ∃ t u, exec .halt (facing .recvData (boot [99])) = .next t ∧ step t = .next u :=
  ⟨_, _, rfl, rfl⟩
theorem witness_exec_base_changes : ∃ t, exec (.adjustBase .immediate) (boot [109, 1]) = .next t ∧
    t.rb ≠ (boot [109, 1]).rb := ⟨_, rfl, by decide⟩
theorem witness_ignores_host : ∃ t, exec .halt (boot [99]) = .next t := ⟨_, rfl⟩

/-- A core at an output whose host never moves. -/
def unserved : State := { boot [104, 5] with host := { (boot [104, 5]).host with rest := .delay } }

theorem witness_unserved : unserved.host.schedule = [] ∧ unserved.host.rest = .delay ∧ offer unserved = some (.send 5) :=
  ⟨rfl, rfl, rfl⟩
/-- A core at an input under INTERACTIVE whose host never moves: it offers a pulse at depth 0. -/
theorem witness_unserved_pulse :
    offer { bootWith interactiveCfg [3, 5] with host := unserved.host } = some .pulse ∧
    (bootWith interactiveCfg [3, 5]).cfg.readyDepth = .zero := ⟨rfl, rfl⟩
theorem witness_written_word : (boot [1101, 98, 1, 4]).cfg.overflow = .wrap ∧
    ResolvesSSD (boot [1101, 98, 1, 4]) .immediate .immediate .position 98 1 ((boot [1101, 98, 1, 4]).ip + 4) ∧
    decode false (BitVec.ofInt 64 ((98 : Word).toInt + (1 : Word).toInt)) = .ok .halt := ⟨rfl, ⟨rfl, rfl, rfl⟩, rfl⟩
theorem witness_reads_after_close : (facing .recvData closedState).chan.dataClosed = true ∧
    hostMove (facing .recvData closedState).host = .recvData ∧
    (facing .recvReady closedState).chan.readyClosed = true ∧
    hostMove (facing .recvReady closedState).host = .recvReady := by decide

theorem witness_memory_invariant : MemoryCanonical (boot [1101, 7, 8, 5]) ∧ ∃ t, step (boot [1101, 7, 8, 5]) = .next t :=
  ⟨⟨rfl, rfl⟩, _, rfl⟩
theorem witness_fault_invariant : FaultRecorded (boot [0]) ∧ ∃ t, step (boot [0]) = .next t := by
  refine ⟨⟨by decide, ?_⟩, _, rfl⟩
  intro f hf; cases hf
theorem witness_channel_invariant : ChannelsTrackRun (boot [99]) ∧ ClosedOnce (boot [99]) ∧
    ∃ t, step (boot [99]) = .next t := ⟨⟨by decide, by decide, by decide⟩, rfl, _, rfl⟩
theorem witness_pulse_pending : PulsePending ((bootWith interactiveCfg [3, 5]).setPhase .pulseDone) ∧
    ∃ t, step ((bootWith interactiveCfg [3, 5]).setPhase .pulseDone) = .next t :=
  ⟨fun _ => ⟨rfl, rfl, .position, 5, rfl, rfl⟩, _, rfl⟩
theorem witness_pulse_per_input : PulsePerInput (bootWith interactiveCfg [3, 5]) ∧
    ∃ t, step (bootWith interactiveCfg [3, 5]) = .next t := ⟨⟨fun _ => rfl, fun _ => rfl⟩, _, rfl⟩

theorem witness_reset_image : (0 : Nat) ≤ addrMax ∧ ([1101, 7] : List Word)[0]? = some 1101 ∧
    ([1101, 7] : List Word).length ≤ 2 := by decide

end Sys2Proof.Tests
end

section
/-!
The value and the congruence class of the word `toWord` answers, and with them R11 as a whole.
-/

namespace Sys2Proof.Machine

theorem inWordRange_iff {x : Int} : inWordRange x = true ↔ wordMin ≤ x ∧ x ≤ wordMax := by
  simp [inWordRange]

/-- In range the setting of OVERFLOW plays no part (R11). -/
theorem toWord_inRange (o : Overflow) {x : Int} (hx : wordMin ≤ x ∧ x ≤ wordMax) :
    toWord o x = .ok (BitVec.ofInt 64 x) :=
  if_pos (inWordRange_iff.2 hx)

theorem toWord_fault_outOfRange {x : Int} (hx : ¬ (wordMin ≤ x ∧ x ≤ wordMax)) :
    toWord .fault x = .error { cause := .arithmeticOverflow, info := x } :=
  if_neg (mt inWordRange_iff.1 hx)

theorem toInt_ofInt_inRange {x : Int} (hx : wordMin ≤ x ∧ x ≤ wordMax) : (BitVec.ofInt 64 x).toInt = x :=
  BitVec.toInt_ofInt_eq_self (by decide) hx.1 (Int.lt_add_one_of_le hx.2)

/-- A word is the reduction of `x` exactly when its signed value is congruent to `x` (R11). -/
theorem toInt_sub_emod_eq_zero_iff (z : Word) (x : Int) :
    (z.toInt - x) % 2 ^ 64 = 0 ↔ z = BitVec.ofInt 64 x := by
  calc (z.toInt - x) % 2 ^ 64 = 0
      ↔ z.toInt.bmod (2 ^ 64) = x.bmod (2 ^ 64) := by
        rw [Int.bmod_eq_bmod_iff_bmod_sub_eq_zero, ← Int.dvd_iff_bmod_eq_zero, Int.dvd_iff_emod_eq_zero]
        norm_num
    _ ↔ z = BitVec.ofInt 64 x := by
        rw [BitVec.toInt_bmod_cancel, ← BitVec.toInt_ofInt, BitVec.toInt_inj]

/-- Settles O11: the word `toWord` answers is `BitVec.ofInt 64 x`, whose value is `x` in range and which is the one word
congruent to `x` everywhere. -/
theorem toWordReducesExactResults : Obligations.ToWordReducesExactResults := by
  intro x
  refine ⟨fun hmin hmax o => ?inRange, fun hout => ⟨?wrap, toWord_fault_outOfRange hout⟩⟩
  case inRange => exact ⟨_, toWord_inRange o ⟨hmin, hmax⟩, toInt_ofInt_inRange ⟨hmin, hmax⟩⟩
  case wrap => exact ⟨_, toWord_wrap x, fun z => toInt_sub_emod_eq_zero_iff z x⟩

end Sys2Proof.Machine
end

section
/-!
What a step does to the configuration, the status, the registers and the I/O state. Each is said once, and the state
transitions of R16, R19, R22 and R23 are read off here.
-/

namespace Sys2Proof.Machine

variable {i : Instr} {s t : State}

/-- A step of the host alone changes the host's side; of the core, it can only empty the pulse buffer and record
READY_TAKEN (R67 item 4, R85, R87). -/
theorem hostStep_eq (h : hostStep s = some t) :
    ∃ slot tr hs, t = { s with chan := { s.chan with readySlot := slot }, trace := tr, host := hs } ∧
      (slot = true → s.chan.readySlot = true) ∧ (tr = s.trace ∨ tr = s.trace ++ [.readyTaken]) := by
  rcases hostStep_cases h with ⟨-, -, rfl⟩ | ⟨-, -, rfl⟩ | ⟨-, -, -, rfl⟩
  · exact ⟨s.chan.readySlot, s.trace, _, rfl, id, .inl rfl⟩
  · rcases readClosedReady_cases s with ⟨-, -, hread⟩ | hread
    · exact ⟨s.chan.readySlot, _, _, hread, id, .inr rfl⟩
    · exact ⟨s.chan.readySlot, s.trace, _, hread, id, .inl rfl⟩
  · exact ⟨false, _, s.host, rfl, nofun, .inr rfl⟩

/-! ### the effect of an instruction -/

/-- `exec_cases` with a name for each case: the state an instruction leads to, and what of the instruction the facts
below need. -/
inductive ExecEffect (s : State) : Instr → State → Prop
  | faults {i : Instr} (r : Raised) : ExecEffect s i (s.raise r)
  | writes {i : Instr} (a : Nat) (v : Word) (width : i.width = 4) : ExecEffect s i ((s.store a v).advance 4)
  | pulses {m1 : Mode} {a1 : Nat} (resolved : dst s m1 1 = .ok a1) (interactive : s.cfg.interactive = true)
      (idle : s.ioPhase = .idle) : ExecEffect s (.input m1) (pulse s)
  | receives {m1 : Mode} (a1 : Nat) (phase : ¬ (s.cfg.interactive = true ∧ s.ioPhase = .idle)) :
      ExecEffect s (.input m1) (receiveInto s a1)
  | sends {m1 : Mode} (v : Word) : ExecEffect s (.output m1) ((s.record (.sent v)).advance 2)
  | waits {m1 : Mode} : ExecEffect s (.output m1) s
  | jumps {i : Instr} {m1 m2 : Mode} {v : Word} (isJump : i = .jumpIfTrue m1 m2 ∨ i = .jumpIfFalse m1 m2)
      (target : src s m2 2 = .ok v) (nonneg : 0 ≤ v.toInt) : ExecEffect s i (s.setIp v.toInt.toNat)
  | fallsThrough {i : Instr} (width : i.width = 3) : ExecEffect s i (s.advance 3)
  | adjusts {m1 : Mode} (b : Word) : ExecEffect s (.adjustBase m1) ((s.setBase b).advance 2)
  | halts : ExecEffect s .halt { closeAll s with run := .halted }

theorem exec_effect (h : exec i s = .next t) : ExecEffect s i t := by
  rcases exec_cases h with ⟨r, rfl⟩ | ⟨m1, m2, m3, _, _, a, v, hi, -, rfl⟩ | ⟨m1, a1, rfl, hd, hint, hidle, rfl⟩ |
    ⟨m1, a1, rfl, -, hphase, rfl⟩ | ⟨m1, v, rfl, -, ⟨-, rfl⟩ | ⟨-, rfl⟩⟩ |
    ⟨m1, m2, _, v2, hi, hr, ⟨h0, rfl⟩ | rfl⟩ | ⟨m1, _, b, rfl, -, rfl⟩ | ⟨rfl, rfl⟩
  · exact .faults r
  · exact .writes a v (by rcases hi with rfl | rfl | rfl | rfl <;> rfl)
  · exact .pulses hd hint hidle
  · exact .receives a1 hphase
  · exact .sends v
  · exact .waits
  · exact .jumps hi (sources_ok_iff.mp hr).2 h0
  · exact .fallsThrough (by rcases hi with rfl | rfl <;> rfl)
  · exact .adjusts b
  · exact .halts

/-! ### the status: run state, fault record, configuration -/

theorem pulse_sameStatus (s : State) : SameStatus s (pulse s) := by
  rcases pulse_cases s with ⟨-, -, hp⟩ | ⟨-, -, hp⟩ | ⟨hp, -⟩ <;> rw [hp] <;> exact ⟨rfl, rfl, rfl⟩

theorem receiveInto_sameStatus (s : State) (a : Nat) : SameStatus s (receiveInto s a) := by
  rcases receiveInto_cases s a with ⟨v, h, -, -, hr⟩ | ⟨hr, -⟩ <;> rw [hr] <;> exact ⟨rfl, rfl, rfl⟩

/-- An instruction raises a fault, or is a halt, or leaves the status alone. -/
theorem exec_status (h : exec i s = .next t) :
    (∃ r, t = s.raise r) ∨ (i = .halt ∧ t = { closeAll s with run := .halted }) ∨ SameStatus s t := by
  cases exec_effect h with
  | faults r => exact .inl ⟨r, rfl⟩
  | pulses => exact .inr (.inr (pulse_sameStatus s))
  | receives a1 => exact .inr (.inr (receiveInto_sameStatus s a1))
  | halts => exact .inr (.inl ⟨rfl, rfl⟩)
  | _ => exact .inr (.inr ⟨rfl, rfl, rfl⟩)

/-- A step takes a fault of a Running core, or halts it, or leaves the status alone; a stopped core's `ip` stays. -/
theorem step_status (h : step s = .next t) :
    (s.run = .running ∧ ∃ r, t = tick (s.raise r)) ∨
    (s.run = .running ∧ fetch s = .ok .halt ∧ t = tick { closeAll s with run := .halted }) ∨
    (SameStatus s t ∧ (s.run = .running ∨ t.ip = s.ip)) := by
  rcases step_cases h with ⟨u, hu, rfl⟩ | ⟨-, hrun, ⟨r, -, rfl⟩ | ⟨i, u, hi, hu, rfl⟩⟩
  · obtain ⟨_, _, _, rfl, -, -⟩ := hostStep_eq hu
    exact .inr (.inr ⟨⟨rfl, rfl, rfl⟩, .inr rfl⟩)
  · exact .inl ⟨hrun, r, rfl⟩
  · rcases exec_status hu with ⟨r, rfl⟩ | ⟨rfl, rfl⟩ | hsame
    · exact .inl ⟨hrun, r, rfl⟩
    · exact .inr (.inl ⟨hrun, hi, rfl⟩)
    · exact .inr (.inr ⟨hsame, .inl hrun⟩)

/-- Settles O38: neither a fault, nor a halt, nor a step that leaves the status alone writes the configuration. -/
theorem configurationNeverChanges : Obligations.ConfigurationNeverChanges := by
  intro s t h
  rcases step_status h with ⟨-, r, rfl⟩ | ⟨-, -, rfl⟩ | ⟨⟨-, -, hcfg⟩, -⟩
  · rfl
  · rfl
  · exact hcfg

/-- Settles O32: the three cases of `step_status`, of which the last leaves the run state alone. -/
theorem runStateTransitions : Obligations.RunStateTransitions := by
  intro s t h hne
  rcases step_status h with ⟨hrun, r, rfl⟩ | ⟨hrun, hf, rfl⟩ | ⟨⟨hsame, -, -⟩, -⟩
  · exact ⟨hrun, .inl rfl⟩
  · exact ⟨hrun, .inr ⟨rfl, hf⟩⟩
  · exact absurd hsame hne

/-! ### the registers -/

theorem pulse_registers (s : State) : (pulse s).ip = s.ip ∧ (pulse s).rb = s.rb := by
  rcases pulse_cases s with ⟨-, -, hp⟩ | ⟨-, -, hp⟩ | ⟨hp, -⟩ <;> rw [hp] <;> exact ⟨rfl, rfl⟩

theorem receiveInto_registers (s : State) (a : Nat) :
    ((receiveInto s a).ip = s.ip ∨ (receiveInto s a).ip = s.ip + 2) ∧ (receiveInto s a).rb = s.rb := by
  rcases receiveInto_cases s a with ⟨v, h, -, -, hr⟩ | ⟨hr, -⟩ <;> rw [hr]
  · exact ⟨.inr rfl, rfl⟩
  · exact ⟨.inl rfl, rfl⟩

/-- A step that executes no instruction leaves the registers alone. -/
theorem step_registers (h : step s = .next t) :
    (t.ip = s.ip ∧ t.rb = s.rb) ∨ ∃ i u, fetch s = .ok i ∧ exec i s = .next u ∧ t.ip = u.ip ∧ t.rb = u.rb := by
  rcases step_cases h with ⟨u, hu, rfl⟩ | ⟨-, -, ⟨r, -, rfl⟩ | ⟨i, u, hi, hu, rfl⟩⟩
  · obtain ⟨_, _, _, rfl, -, -⟩ := hostStep_eq hu
    exact .inl ⟨rfl, rfl⟩
  · exact .inl ⟨rfl, rfl⟩
  · exact .inr ⟨i, u, hi, hu, rfl, rfl⟩

/-- An instruction leaves `ip` (it faults, waits, pulses or halts), advances it by its width, or jumps (R17). -/
theorem exec_ip (h : exec i s = .next t) :
    t.ip = s.ip ∨ t.ip = s.ip + i.width ∨
      ∃ m1 m2 v, (i = .jumpIfTrue m1 m2 ∨ i = .jumpIfFalse m1 m2) ∧ src s m2 2 = .ok v ∧ 0 ≤ v.toInt ∧
        (t.ip : Int) = v.toInt := by
  cases exec_effect h with
  | writes a v width => exact .inr (.inl (by simp [width]))
  | pulses => exact .inl (pulse_registers s).1
  | receives a1 => exact (receiveInto_registers s a1).1.imp_right .inl
  | sends | adjusts => exact .inr (.inl rfl)
  | jumps isJump target nonneg => exact .inr (.inr ⟨_, _, _, isJump, target, nonneg, Int.toNat_of_nonneg nonneg⟩)
  | fallsThrough width => exact .inr (.inl (by simp [width]))
  | faults | waits | halts => exact .inl rfl

/-- Only adjust-base gives `rb` another value (R100). -/
theorem exec_rb (h : exec i s = .next t) : t.rb = s.rb ∨ ∃ m1, i = .adjustBase m1 := by
  cases exec_effect h with
  | pulses => exact .inl (pulse_registers s).2
  | receives a1 => exact .inl (receiveInto_registers s a1).2
  | adjusts => exact .inr ⟨_, rfl⟩
  | _ => exact .inl rfl

/-- Settles O33: a step that changes `ip` executed an instruction, and `exec_ip` says how that instruction moved it. -/
theorem instructionPointerMoves : Obligations.InstructionPointerMoves := by
  intro s t h hne
  rcases step_registers h with ⟨hip, -⟩ | ⟨i, u, hi, hu, hip, -⟩
  · exact absurd hip hne
  · rw [hip] at hne ⊢
    exact ⟨i, hi, (exec_ip hu).resolve_left hne⟩

/-- Settles O34: a step that changes `rb` executed an instruction, which by `exec_rb` is adjust-base. -/
theorem onlyAdjustBaseWritesBase : Obligations.OnlyAdjustBaseWritesBase := by
  intro s t h hne
  rcases step_registers h with ⟨-, hrb⟩ | ⟨i, u, hi, hu, -, hrb⟩
  · exact absurd hrb hne
  · obtain ⟨m1, rfl⟩ := (exec_rb hu).resolve_left (hrb ▸ hne)
    exact ⟨m1, hi⟩

/-! ### the I/O state -/

/-- What a step can do to the phase, the channels and the trace: the host moves alone; the core does something that is no
hand-off; or it sends, gives a pulse, receives or closes (R83 to R86). -/
inductive StepIo (s : State) : State → Prop
  | host {u : State} (moved : hostStep s = some u) : StepIo s (tick u)
  | silent {t : State} (run : t.run = .halted ↔ s.run = .halted) (phase : t.ioPhase = s.ioPhase)
      (chan : t.chan = s.chan) (trace : t.trace = s.trace) : StepIo s t
  | sent (v : Word) : StepIo s (tick ((s.record (.sent v)).advance 2))
  | pulsed {m1 : Mode} {a1 : Nat} {c : Chan} (running : s.run = .running) (fetched : fetch s = .ok (.input m1))
      (resolved : dst s m1 1 = .ok a1) (interactive : s.cfg.interactive = true) (idle : s.ioPhase = .idle)
      (chan : c = s.chan ∨ s.cfg.readyDepth = .one ∧ c = { s.chan with readySlot := true }) :
      StepIo s (tick { (s.record .ready).setPhase .pulseDone with chan := c })
  | received (a : Nat) (v : Word) (h : HostSide) (phase : ¬ (s.cfg.interactive = true ∧ s.ioPhase = .idle)) :
      StepIo s (tick { (((s.record (.received v)).store a v).setPhase .idle).advance 2 with host := h })
  | halted (running : s.run = .running) : StepIo s (tick { closeAll s with run := .halted })

/-- The steps that leave the run state and all of the I/O state but the host alone. -/
theorem StepIo.silent_of_same {u : State} (hrun : u.run = s.run) (hphase : u.ioPhase = s.ioPhase) (hchan : u.chan = s.chan)
    (htrace : u.trace = s.trace) : StepIo s (tick u) :=
  .silent (by rw [tick_run, hrun]) hphase hchan htrace

/-- Taking a fault closes no channel and records no event (R111). -/
theorem StepIo.silent_raise (hrun : s.run = .running) (r : Raised) : StepIo s (tick (s.raise r)) :=
  .silent (by simp [hrun]) rfl rfl rfl

/-- The pulse step of an input, given or waiting (R85, R91). -/
theorem stepIo_pulse {m1 : Mode} {a1 : Nat} (hrun : s.run = .running) (hf : fetch s = .ok (.input m1))
    (hd : dst s m1 1 = .ok a1) (hint : s.cfg.interactive = true) (hidle : s.ioPhase = .idle) :
    StepIo s (tick (pulse s)) := by
  rcases pulse_cases s with ⟨-, -, hp⟩ | ⟨hdepth, -, hp⟩ | ⟨hp, -⟩ <;> rw [hp]
  · exact .pulsed hrun hf hd hint hidle (.inl rfl)
  · exact .pulsed hrun hf hd hint hidle (.inr ⟨hdepth, rfl⟩)
  · exact .silent_of_same rfl rfl rfl rfl

/-- The receive step of an input, completed or waiting (R83, R91). -/
theorem stepIo_receiveInto (a : Nat) (hphase : ¬ (s.cfg.interactive = true ∧ s.ioPhase = .idle)) :
    StepIo s (tick (receiveInto s a)) := by
  rcases receiveInto_cases s a with ⟨v, h, -, -, hr⟩ | ⟨hr, -⟩ <;> rw [hr]
  · exact .received a v h hphase
  · exact .silent_of_same rfl rfl rfl rfl

/-- An instruction of a Running core that is fetched at `s`. -/
theorem exec_stepIo (hrun : s.run = .running) (hi : fetch s = .ok i) (h : exec i s = .next t) : StepIo s (tick t) := by
  cases exec_effect h with
  | faults r => exact .silent_raise hrun r
  | pulses resolved interactive idle => exact stepIo_pulse hrun hi resolved interactive idle
  | receives a1 phase => exact stepIo_receiveInto a1 phase
  | sends v => exact .sent v
  | halts => exact .halted hrun
  | _ => exact .silent_of_same rfl rfl rfl rfl

/-- Everything a step can do to the I/O state. -/
theorem step_stepIo (h : step s = .next t) : StepIo s t := by
  rcases step_cases h with ⟨u, hu, rfl⟩ | ⟨-, hrun, ⟨r, -, rfl⟩ | ⟨i, u, hi, hu, rfl⟩⟩
  · exact .host hu
  · exact .silent_raise hrun r
  · exact exec_stepIo hrun hi hu

/-! ### what fetch and resolve look at -/

theorem fetch_congr (hcfg : t.cfg = s.cfg) (hmem : t.mem = s.mem) (hip : t.ip = s.ip) : fetch t = fetch s := by
  unfold fetch
  rw [hip, hcfg, State.load_congr hmem]

theorem paramWord_congr (hmem : t.mem = s.mem) (hip : t.ip = s.ip) (k : Nat) : paramWord t k = paramWord s k := by
  unfold paramWord
  rw [hip, State.load_congr hmem]

theorem dst_congr (hcfg : t.cfg = s.cfg) (hmem : t.mem = s.mem) (hip : t.ip = s.ip) (hrb : t.rb = s.rb) (m : Mode)
    (k : Nat) : dst t m k = dst s m k := by
  unfold dst destinationAddress
  rw [paramWord_congr hmem hip, hcfg, hrb, hip, State.load_congr hmem]

/-- An input whose destination resolves receives once its pulse is done (R91). -/
theorem exec_input_of_pulseDone {m1 : Mode} {a1 : Nat} (hd : dst s m1 1 = .ok a1) (hp : s.ioPhase = .pulseDone) :
    exec (.input m1) s = .next (receiveInto s a1) := by
  simp [exec, execInput, inputEffect, hd, hp, settle]

end Sys2Proof.Machine
end

section
/-!
Every step keeps the invariants of 10_state: the fault record (R20), the channels and CLOSE (R26, R86), the pending pulse
and the pulses per input (R25).
-/

namespace Sys2Proof.Machine

variable {s t : State}

/-! ### the fault record -/

/-- Settles O45: a fault writes the record at `ip`; a halt and every other step of a Running core keep the record absent;
and a stopped core keeps its record and its `ip`. -/
theorem stepKeepsFaultRecord : Obligations.StepKeepsFaultRecord := by
  rintro s t ⟨hiff, hip⟩ h
  have absent : s.run = .running → s.fault = none := fun hrun => by simpa [hrun] using hiff
  rcases step_status h with ⟨-, r, rfl⟩ | ⟨hrun, -, rfl⟩ | ⟨⟨hsame, hfault, -⟩, hor⟩
  case inl => exact ⟨by simp, by simp⟩
  case inr.inl => exact ⟨by simp [absent hrun], by simp [absent hrun]⟩
  case inr.inr =>
    refine ⟨by rw [hsame, hfault]; exact hiff, fun f hf => ?_⟩
    rw [hfault] at hf
    rcases hor with hrun | hkeep
    · rw [absent hrun] at hf; cases hf
    · rw [hkeep]; exact hip f hf

/-! ### the channels and CLOSE -/

/-- Steps that close no channel, and fill the pulse buffer only where it exists, keep `ChannelsTrackRun`. -/
theorem ChannelsTrackRun.congr (hs : ChannelsTrackRun s) (hcfg : t.cfg = s.cfg)
    (hrun : t.run = .halted ↔ s.run = .halted) (hdata : t.chan.dataClosed = s.chan.dataClosed)
    (hready : t.chan.readyClosed = s.chan.readyClosed)
    (hslot : t.chan.readySlot = true →
      s.chan.readySlot = true ∨ (s.cfg.interactive = true ∧ s.cfg.readyDepth = .one)) : ChannelsTrackRun t := by
  obtain ⟨hsdata, hsready, hsslot⟩ := hs
  unfold ChannelsTrackRun
  rw [hcfg, hrun, hdata, hready]
  exact ⟨hsdata, hsready, fun ht => (hslot ht).elim hsslot id⟩

theorem closesOf_eq (r : Run) : closesOf r = if r = .halted then 1 else 0 := by cases r <;> rfl

theorem ClosedOnce.congr (hs : ClosedOnce s) (hrun : t.run = .halted ↔ s.run = .halted)
    (hcount : t.trace.count .close = s.trace.count .close) : ClosedOnce t := by
  unfold ClosedOnce at *
  rw [hcount, hs, closesOf_eq, closesOf_eq]
  simp [hrun]

theorem channelsTrackRun_halt (hs : ChannelsTrackRun s) (hrun : s.run = .running) :
    ChannelsTrackRun (tick { closeAll s with run := .halted }) := by
  obtain ⟨-, hready, hslot⟩ := hs
  have hopen : s.chan.readyClosed = false := by simpa [hrun] using hready
  exact ⟨by simp, by simp [hopen], hslot⟩

theorem closedOnce_halt (hs : ClosedOnce s) (hrun : s.run = .running) :
    ClosedOnce (tick { closeAll s with run := .halted }) := by
  have hzero : s.trace.count .close = 0 := by simpa [ClosedOnce, hrun, closesOf] using hs
  simp [ClosedOnce, closesOf, hzero]

/-- Settles O46: only a halt closes channels and records CLOSE, and it makes the core Halted; only a pulse at depth 1 fills
the buffer. -/
theorem stepKeepsChannelsAndClose : Obligations.StepKeepsChannelsAndClose := by
  intro s t hchan hclose h
  have hcfg := configurationNeverChanges s t h
  cases step_stepIo h with
  | host moved =>
    obtain ⟨slot, tr, hs, rfl, hslot, htr⟩ := hostStep_eq moved
    refine ⟨hchan.congr hcfg .rfl rfl rfl fun ht => .inl (hslot ht), hclose.congr .rfl ?_⟩
    rcases htr with rfl | rfl <;> simp
  | silent run phase chan trace =>
    exact ⟨hchan.congr hcfg run (by rw [chan]) (by rw [chan]) fun ht => .inl (chan ▸ ht),
      hclose.congr run (by rw [trace])⟩
  | sent v => exact ⟨hchan.congr hcfg .rfl rfl rfl .inl, hclose.congr .rfl (by simp)⟩
  | pulsed running fetched resolved interactive idle chan =>
    refine ⟨?_, hclose.congr .rfl (by simp)⟩
    rcases chan with rfl | ⟨hdepth, rfl⟩
    · exact hchan.congr hcfg .rfl rfl rfl .inl
    · exact hchan.congr hcfg .rfl rfl rfl fun _ => .inr ⟨interactive, hdepth⟩
  | received a v hs phase => exact ⟨hchan.congr hcfg .rfl rfl rfl .inl, hclose.congr .rfl (by simp)⟩
  | halted running => exact ⟨channelsTrackRun_halt hchan running, closedOnce_halt hclose running⟩

/-! ### the pending pulse -/

/-- A core that is still at an input that resolves, under INTERACTIVE, may have its pulse done. -/
theorem pulsePending_of_same {m1 : Mode} {a1 : Nat} (hrun : t.run = .running) (hint : t.cfg.interactive = true)
    (hf : fetch s = .ok (.input m1)) (hd : dst s m1 1 = .ok a1) (hcfg : t.cfg = s.cfg) (hmem : t.mem = s.mem)
    (hip : t.ip = s.ip) (hrb : t.rb = s.rb) : PulsePending t := fun _ =>
  ⟨hrun, hint, m1, a1, by rw [fetch_congr hcfg hmem hip, hf], by rw [dst_congr hcfg hmem hip hrb, hd]⟩

theorem pulsePending_of_idle (h : t.ioPhase = .idle) : PulsePending t := fun hp => by
  rw [h] at hp; cases hp

/-- From Idle, only the pulse of an input that resolves makes `io_phase` PulseDone. -/
theorem pulsePending_from_idle (hidle : s.ioPhase = .idle) (h : step s = .next t) : PulsePending t := by
  cases step_stepIo h with
  | host moved =>
    obtain ⟨_, _, _, rfl, -, -⟩ := hostStep_eq moved
    exact pulsePending_of_idle hidle
  | silent run phase chan trace => exact pulsePending_of_idle (phase.trans hidle)
  | sent v => exact pulsePending_of_idle hidle
  | pulsed running fetched resolved interactive idle chan =>
    exact pulsePending_of_same running interactive fetched resolved rfl rfl rfl rfl
  | received a v hs phase => exact pulsePending_of_idle rfl
  | halted running => exact pulsePending_of_idle hidle

/-- From a pending pulse, the step is the host's, or the input's receive, which completes or waits. -/
theorem pulsePending_from_pulseDone {m1 : Mode} {a1 : Nat} (hp : s.ioPhase = .pulseDone) (hrun : s.run = .running)
    (hint : s.cfg.interactive = true) (hf : fetch s = .ok (.input m1)) (hd : dst s m1 1 = .ok a1)
    (h : step s = .next t) : PulsePending t := by
  rcases step_cases h with ⟨u, hu, rfl⟩ | ⟨-, -, ⟨r, hr, -⟩ | ⟨i, u, hi, hu, rfl⟩⟩
  · obtain ⟨_, _, _, rfl, -, -⟩ := hostStep_eq hu
    exact pulsePending_of_same hrun hint hf hd rfl rfl rfl rfl
  · rw [hf] at hr; cases hr
  · obtain rfl : Instr.input m1 = i := by rw [hf] at hi; injection hi
    rw [exec_input_of_pulseDone hd hp] at hu
    injection hu with hu
    subst hu
    rcases receiveInto_cases s a1 with ⟨v, hs, -, -, hr⟩ | ⟨hr, -⟩ <;> rw [hr]
    · exact pulsePending_of_idle rfl
    · exact pulsePending_of_same hrun hint hf hd rfl rfl rfl rfl

/-- Settles O47, by the phase before the step. -/
theorem stepKeepsPulsePending : Obligations.StepKeepsPulsePending := by
  intro s t hinv h
  cases hphase : s.ioPhase with
  | idle => exact pulsePending_from_idle hphase h
  | pulseDone =>
    obtain ⟨hrun, hint, m1, a1, hf, hd⟩ := hinv hphase
    exact pulsePending_from_pulseDone hphase hrun hint hf hd h

/-! ### the pulses per input -/

theorem receivedCount_append (xs ys : List Event) :
    receivedCount (xs ++ ys) = receivedCount xs + receivedCount ys := by
  induction xs with
  | nil => simp [receivedCount]
  | cons e xs ih => cases e <;> simp only [List.cons_append, receivedCount, ih, Nat.add_right_comm]

theorem PulsePerInput.congr (hs : PulsePerInput s) (hcfg : t.cfg = s.cfg) (hphase : t.ioPhase = s.ioPhase)
    (hready : t.trace.count .ready = s.trace.count .ready) (hrecv : receivedCount t.trace = receivedCount s.trace) :
    PulsePerInput t := by
  unfold PulsePerInput at *
  rwa [hcfg, hphase, hready, hrecv]

/-- An event that is neither a READY nor an IN leaves both counts as they are. -/
theorem PulsePerInput.congr_append {e : Event} (hs : PulsePerInput s) (hcfg : t.cfg = s.cfg)
    (hphase : t.ioPhase = s.ioPhase) (htrace : t.trace = s.trace ++ [e]) (hready : e ≠ .ready)
    (hrecv : receivedCount [e] = 0) : PulsePerInput t :=
  hs.congr hcfg hphase (by simp [htrace, hready]) (by rw [htrace, receivedCount_append, hrecv, Nat.add_zero])

/-- The pulse of an idle input is the one READY more that PulseDone stands for (R25). -/
theorem pulsePerInput_pulsed (hs : PulsePerInput s) (hint : s.cfg.interactive = true) (hidle : s.ioPhase = .idle)
    (hcfg : t.cfg = s.cfg) (hphase : t.ioPhase = .pulseDone) (htrace : t.trace = s.trace ++ [.ready]) :
    PulsePerInput t := by
  obtain ⟨hon, -⟩ := hs
  have hcount : s.trace.count .ready = receivedCount s.trace := by simpa [hidle, pulsesOf] using hon hint
  constructor
  · intro _
    simp [hphase, htrace, receivedCount_append, receivedCount, pulsesOf, hcount]
  · intro hoff
    rw [hcfg, hint] at hoff
    cases hoff

/-- The receive counts one IN, and takes back the READY that PulseDone stood for; without INTERACTIVE no READY is counted
(R91). -/
theorem pulsePerInput_received (hs : PulsePerInput s) {v : Word}
    (hbefore : ¬ (s.cfg.interactive = true ∧ s.ioPhase = .idle)) (hcfg : t.cfg = s.cfg) (hphase : t.ioPhase = .idle)
    (htrace : t.trace = s.trace ++ [.received v]) : PulsePerInput t := by
  obtain ⟨hon, hoff⟩ := hs
  constructor
  · intro hint
    rw [hcfg] at hint
    have hdone : s.ioPhase = .pulseDone := by
      cases hp : s.ioPhase with
      | idle => exact absurd ⟨hint, hp⟩ hbefore
      | pulseDone => rfl
    simpa [hphase, htrace, receivedCount_append, receivedCount, pulsesOf, hdone] using hon hint
  · intro hint
    rw [hcfg] at hint
    simpa [htrace] using hoff hint

/-- Settles O48: only the pulse adds a READY and only the receive an IN, and each changes the phase to match. -/
theorem stepKeepsOnePulsePerInput : Obligations.StepKeepsOnePulsePerInput := by
  intro s t hinv h
  have hcfg := configurationNeverChanges s t h
  cases step_stepIo h with
  | host moved =>
    obtain ⟨slot, tr, hs, rfl, -, rfl | rfl⟩ := hostStep_eq moved
    · exact hinv.congr hcfg rfl rfl rfl
    · exact hinv.congr_append hcfg rfl rfl nofun rfl
  | silent run phase chan trace => exact hinv.congr hcfg phase (by rw [trace]) (by rw [trace])
  | sent v => exact hinv.congr_append hcfg rfl rfl nofun rfl
  | pulsed running fetched resolved interactive idle chan =>
    exact pulsePerInput_pulsed hinv interactive idle hcfg rfl rfl
  | received a v hs phase => exact pulsePerInput_received hinv phase hcfg rfl rfl
  | halted running => exact hinv.congr_append hcfg rfl rfl nofun rfl

end Sys2Proof.Machine
end

section
/-!
The state after reset (R29, R123): the words of a placed image, and the invariants.
-/

namespace Sys2Proof.Machine

/-- Placing words writes at no address before the first and none past the last. -/
theorem Memory.read_place_outside (ws : List Word) :
    ∀ (m : Memory) (a b : Nat), b < a ∨ a + ws.length ≤ b → (m.place a ws).read b = m.read b := by
  induction ws with
  | nil => intros; rfl
  | cons w ws ih =>
    intro m a b hb
    rw [List.length_cons] at hb
    unfold Memory.place
    split
    · rw [ih _ _ _ (by omega), Memory.read_write, if_neg (by omega)]
    · rfl

/-- The word at index `k` of a placed list stands `k` past the first address, where that is an address. -/
theorem Memory.read_place_getElem (ws : List Word) : ∀ (m : Memory) (a k : Nat) (v : Word), a + k ≤ addrMax →
    ws[k]? = some v → (m.place a ws).read (a + k) = v := by
  induction ws with
  | nil => intro m a k v _ hv; simp at hv
  | cons w ws ih =>
    intro m a k v hk hv
    rw [Memory.place, if_pos (by omega)]
    cases k with
    | zero =>
      obtain rfl : w = v := by simpa using hv
      rw [Memory.read_place_outside _ _ _ _ (.inl (by omega)), Memory.read_write, if_pos (Nat.add_zero a)]
    | succ k =>
      rw [List.getElem?_cons_succ] at hv
      rw [Nat.add_comm k 1, ← Nat.add_assoc]
      exact ih _ (a + 1) k v (by omega) hv

variable (cfg : Config) (program : List Word)

theorem State.resetWith_load (a : Nat) :
    (State.resetWith cfg program).load a = (Memory.place [] 0 program).read a := rfl

/-- Settles O51: the image's words and the zeros past it are those of `Memory.place`, and every other field is fixed. -/
theorem resetLeavesTheStatedValues : Obligations.ResetLeavesTheStatedValues := by
  intro cfg program
  refine ⟨fun a v ha hv => ?image, fun a ha => ?zeros, rfl, rfl, rfl, rfl, rfl, rfl, rfl, rfl, rfl, rfl⟩
  case image =>
    rw [State.resetWith_load]
    simpa using Memory.read_place_getElem program [] 0 a v (by omega) hv
  case zeros =>
    rw [State.resetWith_load, Memory.read_place_outside _ _ _ _ (.inr (by omega))]
    rfl

theorem memoryCanonical_resetWith : MemoryCanonical (State.resetWith cfg program) :=
  ⟨Memory.wf_place program 0 rfl, Memory.inRange_place program 0 rfl⟩

theorem faultRecorded_resetWith : FaultRecorded (State.resetWith cfg program) :=
  ⟨⟨nofun, nofun⟩, nofun⟩

theorem channelsTrackRun_resetWith : ChannelsTrackRun (State.resetWith cfg program) :=
  ⟨⟨nofun, nofun⟩, ⟨nofun, nofun⟩, nofun⟩

theorem closedOnce_resetWith : ClosedOnce (State.resetWith cfg program) := rfl

theorem pulsePending_resetWith : PulsePending (State.resetWith cfg program) := pulsePending_of_idle rfl

theorem pulsePerInput_resetWith : PulsePerInput (State.resetWith cfg program) := ⟨fun _ => rfl, fun _ => rfl⟩

/-- Settles O50, one invariant at a time; none depends on the configuration, and memory's alone on the image. -/
theorem everyResetMeetsTheInvariants : Obligations.EveryResetMeetsTheInvariants := fun cfg program =>
  ⟨memoryCanonical_resetWith cfg program, faultRecorded_resetWith cfg program, channelsTrackRun_resetWith cfg program,
    closedOnce_resetWith cfg program, pulsePending_resetWith cfg program, pulsePerInput_resetWith cfg program⟩

/-- Settles O49: State.reset is the reset of the standard configuration with the empty image. -/
theorem resetMeetsTheInvariants : Obligations.ResetMeetsTheInvariants :=
  everyResetMeetsTheInvariants Config.standard []

end Sys2Proof.Machine
end

section
/-!
What a step does to memory: at most one write (R32), at the address its instruction's destination resolves to (R37). The
canonical form, the frame of a step and the word that the next fetch decodes (R46) are read off here.
-/

namespace Sys2Proof.Machine

variable {i : Instr} {s t : State}

/-! ### the one write of a step -/

theorem pulse_mem (s : State) : (pulse s).mem = s.mem := by
  rcases pulse_cases s with ⟨-, -, hp⟩ | ⟨-, -, hp⟩ | ⟨hp, -⟩ <;> rw [hp] <;> rfl

theorem receiveInto_mem (s : State) (a : Nat) :
    (receiveInto s a).mem = s.mem ∨ ∃ v, (receiveInto s a).mem = s.mem.write a v := by
  rcases receiveInto_cases s a with ⟨v, h, -, -, hr⟩ | ⟨hr, -⟩ <;> rw [hr]
  · exact .inr ⟨v, rfl⟩
  · exact .inl rfl

/-- The instruction `i` has a destination parameter, its last one (R51), and at `s` it resolves to `a` (R54). -/
def DestResolvesTo (s : State) (i : Instr) (a : Nat) : Prop :=
  ∃ m, i.destMode = some m ∧ dst s m i.modes.length = .ok a

theorem DestResolvesTo.le_addrMax {a : Nat} (h : DestResolvesTo s i a) : a ≤ addrMax := by
  obtain ⟨m, -, hd⟩ := h
  exact (dst_ok hd).1

/-- An instruction of format F3 has its destination in parameter 3. -/
theorem destResolvesTo_of_sourcesAndDestination {m1 m2 m3 : Mode} {v1 v2 : Word} {a : Nat}
    (hi : i = .add m1 m2 m3 ∨ i = .mul m1 m2 m3 ∨ i = .lessThan m1 m2 m3 ∨ i = .equals m1 m2 m3)
    (h : sourcesAndDestination s m1 m2 m3 = .ok (v1, v2, a)) : DestResolvesTo s i a := by
  obtain ⟨-, -, hd⟩ := sourcesAndDestination_ok_iff.mp h
  rcases hi with rfl | rfl | rfl | rfl <;> exact ⟨m3, rfl, hd⟩

/-- An instruction leaves memory alone, or writes one word at its destination. -/
theorem exec_mem (h : exec i s = .next t) :
    t.mem = s.mem ∨ ∃ a v, DestResolvesTo s i a ∧ t.mem = s.mem.write a v := by
  rcases exec_cases h with ⟨r, rfl⟩ | ⟨m1, m2, m3, _, _, a, v, hi, hr, rfl⟩ | ⟨m1, a1, rfl, -, -, -, rfl⟩ |
    ⟨m1, a1, rfl, hd, -, rfl⟩ | ⟨m1, v, rfl, -, ⟨-, rfl⟩ | ⟨-, rfl⟩⟩ | ⟨m1, m2, _, _, -, -, ⟨-, rfl⟩ | rfl⟩ |
    ⟨m1, _, b, rfl, -, rfl⟩ | ⟨rfl, rfl⟩
  case inr.inl => exact .inr ⟨a, v, destResolvesTo_of_sourcesAndDestination hi hr, rfl⟩
  case inr.inr.inl => exact .inl (pulse_mem s)
  case inr.inr.inr.inl => exact (receiveInto_mem s a1).imp_right fun ⟨v, hm⟩ => ⟨a1, v, ⟨m1, rfl, hd⟩, hm⟩
  all_goals exact .inl rfl

/-- A step leaves memory alone, or writes one word at the destination of the instruction it fetched. -/
theorem step_mem (h : step s = .next t) :
    t.mem = s.mem ∨ ∃ i a v, fetch s = .ok i ∧ DestResolvesTo s i a ∧ t.mem = s.mem.write a v := by
  rcases step_cases h with ⟨u, hu, rfl⟩ | ⟨-, -, ⟨r, -, rfl⟩ | ⟨i, u, hi, hu, rfl⟩⟩
  · obtain ⟨_, _, _, rfl, -, -⟩ := hostStep_eq hu
    exact .inl rfl
  · exact .inl rfl
  · exact (exec_mem hu).imp_right fun ⟨a, v, hd, hm⟩ => ⟨i, a, v, hi, hd, hm⟩

/-- Settles O44: the one write of a step keeps the canonical form, and its address, which a destination resolved to, is an
address of R30. -/
theorem stepKeepsMemoryCanonical : Obligations.StepKeepsMemoryCanonical := by
  rintro s t ⟨hwf, hrange⟩ h
  unfold MemoryCanonical
  rcases step_mem h with hm | ⟨i, a, v, -, hd, hm⟩ <;> rw [hm]
  · exact ⟨hwf, hrange⟩
  · exact ⟨Memory.wf_write hwf a v, Memory.inRange_write hrange hd.le_addrMax v⟩

/-- Settles O35: a step whose memory reads otherwise at `b` wrote, and a write at `a` changes no read but the one at `a`. -/
theorem onlyTheDestinationIsWritten : Obligations.OnlyTheDestinationIsWritten := by
  intro s t b h hne
  rcases step_mem h with hm | ⟨i, a, v, hi, ⟨m, hmode, hd⟩, hm⟩
  · exact absurd (State.load_congr hm b) hne
  · obtain rfl : b = a := by
      by_contra hb
      exact hne (by rw [State.load_eq, hm, Memory.read_write, if_neg hb, State.load_eq])
    exact ⟨i, m, hi, hmode, hd⟩

/-- Settles O39: by `hostStep_eq` a step of the host alone writes only the pulse buffer, the trace and the host's side. -/
theorem hostStepsLeaveTheCore : Obligations.HostStepsLeaveTheCore := by
  intro s t h
  obtain ⟨_, _, _, rfl, -, -⟩ := hostStep_eq h
  exact ⟨rfl, rfl, rfl, rfl, ⟨rfl, rfl, rfl⟩, rfl, rfl⟩

/-! ### the next fetch after a write -/

theorem fetch_of_decode_ok (hip : s.ip ≤ addrMax) (hd : decode s.cfg.strictUnusedModes (s.load s.ip) = .ok i) :
    fetch s = .ok i := by
  simp [fetch, hip, hd]

theorem fetch_of_decode_error {c : Cause} (hip : s.ip ≤ addrMax)
    (hd : decode s.cfg.strictUnusedModes (s.load s.ip) = .error c) :
    fetch s = .error { cause := c, info := (s.load s.ip).toInt } := by
  simp [fetch, hip, hd]

/-- Under wrap, arithmetic whose parameters resolve writes the reduced result (R11). -/
theorem arithmetic_of_resolves_wrap (f : Int → Int → Int) {m1 m2 m3 : Mode} {v1 v2 : Word} {a : Nat}
    (hwrap : s.cfg.overflow = .wrap) (hr : ResolvesSSD s m1 m2 m3 v1 v2 a) :
    arithmetic f s m1 m2 m3 = .ok ((s.store a (BitVec.ofInt 64 (f v1.toInt v2.toInt))).advance 4) := by
  simp [arithmetic, sourcesAndDestination_ok_iff.mpr hr, hwrap, toWord_wrap]

/-- The word written `n` past `ip` is the word at `ip` after the advance by `n`. -/
theorem State.load_ip_store_advance (s : State) (v : Word) (n : Nat) :
    ((s.store (s.ip + n) v).advance n).load ((s.store (s.ip + n) v).advance n).ip = v :=
  State.load_store_self s (s.ip + n) v

/-- Settles O42: after add the next fetch is at `ip + 4`, which is an address because a destination resolved to it, and
reads there the word that add wrote. -/
theorem writtenWordIsFetchedNext : Obligations.WrittenWordIsFetchedNext := by
  intro m1 m2 m3 s v1 v2 hwrap hr
  have ⟨_, _, hdst⟩ := hr
  have haddr : s.ip + 4 ≤ addrMax := (dst_ok hdst).1
  have hload := s.load_ip_store_advance (BitVec.ofInt 64 (v1.toInt + v2.toInt)) 4
  refine ⟨_, settle_next.mpr (.inl (arithmetic_of_resolves_wrap _ hwrap hr)), fun i hd => ?decodes, fun c hd => ?faults⟩
  case decodes => exact fetch_of_decode_ok haddr (by rwa [hload])
  case faults => rw [fetch_of_decode_error haddr (by rwa [hload]), hload]

end Sys2Proof.Machine
end

section
/-!
Facts about the parts of the decoder: decimal digits, modes and their digits, the mode checks of the parameters of one
word in their order, and the opcode table (R8, R49 to R52, R58).
-/

namespace Sys2Proof

open Sys2Proof.Machine

variable {v v' : Nat} {d : Option Nat}

/-! ### digits -/

/-- Digit `k` depends only on the digits up to it. -/
theorem digit_eq_mod_div (v k : Nat) : digit v k = v % 10 ^ (k + 1) / 10 ^ k := by
  rw [pow_succ, Nat.mod_mul_right_div_self, digit]

/-- Words that agree on their low `n` digits agree modulo every smaller power of ten. -/
theorem mod_pow_eq_of_mod_pow_eq {n k : Nat} (h : v % 10 ^ n = v' % 10 ^ n) (hk : k ≤ n) :
    v % 10 ^ k = v' % 10 ^ k := by
  rw [← Nat.mod_mod_of_dvd v (pow_dvd_pow 10 hk), h, Nat.mod_mod_of_dvd v' (pow_dvd_pow 10 hk)]

theorem digit_eq_of_mod_pow_eq {n k : Nat} (h : v % 10 ^ n = v' % 10 ^ n) (hk : k < n) : digit v k = digit v' k := by
  rw [digit_eq_mod_div, mod_pow_eq_of_mod_pow_eq h hk, ← digit_eq_mod_div]

/-- The mode digits of a word are the digits of the word without its opcode field (R49). -/
theorem digit_add_two (v k : Nat) : digit v (k + 2) = digit (v / 100) k := by
  rw [digit, digit, Nat.div_div_eq_div_mul, pow_add, mul_comm (10 ^ k)]
  norm_num

theorem Mode.digit_lt_ten (m : Mode) : m.digit < 10 := by cases m <;> decide

theorem digit_modeDigits_zero (m : Mode) (ms : List Mode) : digit (modeDigits (m :: ms)) 0 = m.digit := by
  have := m.digit_lt_ten
  simp only [digit, modeDigits]
  omega

theorem digit_modeDigits_succ (m : Mode) (ms : List Mode) (k : Nat) :
    digit (modeDigits (m :: ms)) (k + 1) = digit (modeDigits ms) k := by
  have hdiv : modeDigits (m :: ms) / 10 = modeDigits ms := by
    have := m.digit_lt_ten
    simp only [modeDigits]
    omega
  rw [digit, digit, pow_succ', ← Nat.div_div_eq_div_mul, hdiv]

/-- Digit `k` of a list of mode digits is the digit of mode `k` (R49). -/
theorem digit_modeDigits {ms : List Mode} {k : Nat} {m : Mode} (h : ms[k]? = some m) :
    digit (modeDigits ms) k = m.digit := by
  induction ms generalizing k with
  | nil => simp at h
  | cons m' ms ih =>
    cases k with
    | zero => rw [digit_modeDigits_zero, Option.some.inj h]
    | succ k => rw [digit_modeDigits_succ, ih h]

theorem modeDigits_lt (ms : List Mode) : modeDigits ms < 10 ^ ms.length := by
  induction ms with
  | nil => decide
  | cons m ms ih =>
    have := m.digit_lt_ten
    rw [modeDigits, List.length_cons, pow_succ']
    omega

/-! ### modes -/

theorem Mode.ofDigit_eq_some_iff {x : Nat} {m : Mode} : Mode.ofDigit x = some m ↔ x = m.digit := by
  constructor
  · intro h
    unfold Mode.ofDigit at h
    split at h <;> cases h <;> rfl
  · rintro rfl
    cases m <;> rfl

theorem Mode.ofDigit_eq_none_iff {x : Nat} : Mode.ofDigit x = none ↔ 2 < x := by
  unfold Mode.ofDigit
  split <;> simp_all; omega

/-- Immediate is the one mode that is no destination's, and its digit is 1 (R52, R54). -/
theorem Mode.isDestination_iff {m : Mode} : m.isDestination = true ↔ m.digit ≠ 1 := by
  cases m <;> decide

theorem sourceMode_ok_iff {k : Nat} {m : Mode} : sourceMode v k = .ok m ↔ digit v (k + 1) = m.digit := by
  rw [← Mode.ofDigit_eq_some_iff, sourceMode]
  split <;> simp_all

theorem sourceMode_of_illegal {k : Nat} (h : 2 < digit v (k + 1)) : sourceMode v k = .error .illegalMode := by
  rw [sourceMode, Mode.ofDigit_eq_none_iff.mpr h]

theorem sourceMode_cases (v k : Nat) : sourceMode v k = .error .illegalMode ∨ ∃ m, sourceMode v k = .ok m := by
  unfold sourceMode
  split
  · exact .inl rfl
  · exact .inr ⟨_, rfl⟩

theorem destinationMode_ok_iff {k : Nat} {m : Mode} :
    destinationMode v k = .ok m ↔ digit v (k + 1) = m.digit ∧ m.isDestination = true := by
  rw [← sourceMode_ok_iff, destinationMode]
  cases sourceMode v k with
  | error c => simp
  | ok m' => cases m' <;> cases m <;> simp [Mode.isDestination]

/-! ### the mode check of one parameter -/

/-- The mode of parameter `k`, checked as a destination's where `d` says that it is the destination (R58). -/
def paramMode (v : Nat) (d : Option Nat) (k : Nat) : Except Cause Mode :=
  if d = some k then destinationMode v k else sourceMode v k

theorem paramMode_ok_iff {k : Nat} {m : Mode} :
    paramMode v d k = .ok m ↔ digit v (k + 1) = m.digit ∧ (d = some k → m.isDestination = true) := by
  unfold paramMode
  split
  · next hd => simp [destinationMode_ok_iff, hd]
  · next hd => simp [sourceMode_ok_iff, hd]

theorem paramMode_of_illegal {k : Nat} (h : 2 < digit v (k + 1)) : paramMode v d k = .error .illegalMode := by
  simp [paramMode, destinationMode, sourceMode_of_illegal h]

theorem paramMode_of_immediate {k : Nat} (hd : d = some k) (h : digit v (k + 1) = 1) :
    paramMode v d k = .error .immediateDestination := by
  have hs : sourceMode v k = .ok .immediate := sourceMode_ok_iff.mpr h
  simp [paramMode, destinationMode, hd, hs, Mode.isDestination]

theorem paramMode_of_passes {k : Nat} (h : ModePasses v d k) : ∃ m, paramMode v d k = .ok m := by
  obtain ⟨hle, hdest⟩ := h
  obtain ⟨m, hm⟩ := Option.ne_none_iff_exists'.mp (mt Mode.ofDigit_eq_none_iff.mp hle.not_gt)
  have hdigit := Mode.ofDigit_eq_some_iff.mp hm
  have hne (hd : d = some k) : m.digit ≠ 1 := fun h1 => hdest ⟨hd, hdigit.trans h1⟩
  exact ⟨m, paramMode_ok_iff.mpr ⟨hdigit, fun hd => Mode.isDestination_iff.mpr (hne hd)⟩⟩

theorem paramMode_error_cause {k : Nat} {c : Cause} (h : paramMode v d k = .error c) :
    c = .illegalMode ∨ c = .immediateDestination := by
  unfold paramMode destinationMode at h
  rcases sourceMode_cases v k with hs | ⟨m, hs⟩ <;> rw [hs] at h <;> split at h
  · cases h; exact .inl rfl
  · cases h; exact .inl rfl
  · simp only at h
    split at h <;> cases h
    exact .inr rfl
  · cases h

theorem paramMode_congr {k : Nat} (h : digit v (k + 1) = digit v' (k + 1)) : paramMode v d k = paramMode v' d k := by
  simp only [paramMode, destinationMode, sourceMode, h]

/-! ### the mode checks of a word, in parameter order -/

/-- The modes of the `n` parameters from `k` on, or the first refusal in parameter order (R58). -/
def paramModes (v : Nat) (d : Option Nat) : Nat → Nat → Except Cause (List Mode)
  | _, 0 => .ok []
  | k, n + 1 =>
    match paramMode v d k with
    | .error c => .error c
    | .ok m =>
      match paramModes v d (k + 1) n with
      | .error c => .error c
      | .ok ms => .ok (m :: ms)

theorem paramModes_succ_of_error {k n : Nat} {c : Cause} (h : paramMode v d k = .error c) :
    paramModes v d k (n + 1) = .error c := by
  simp [paramModes, h]

theorem paramModes_succ_error_iff_of_ok {k n : Nat} {m : Mode} {c : Cause} (h : paramMode v d k = .ok m) :
    paramModes v d k (n + 1) = .error c ↔ paramModes v d (k + 1) n = .error c := by
  cases hms : paramModes v d (k + 1) n <;> simp [paramModes, h, hms]

theorem paramModes_succ_ok_iff {k n : Nat} {ms : List Mode} :
    paramModes v d k (n + 1) = .ok ms ↔
      ∃ m ms', ms = m :: ms' ∧ paramMode v d k = .ok m ∧ paramModes v d (k + 1) n = .ok ms' := by
  cases hm : paramMode v d k with
  | error c => simp [paramModes, hm]
  | ok m => cases hms : paramModes v d (k + 1) n <;> simp [paramModes, hm, hms, eq_comm]

/-- The checks pass with the modes `ms` exactly when each parameter's check passes with its mode. -/
theorem paramModes_ok_iff {n k : Nat} {ms : List Mode} :
    paramModes v d k n = .ok ms ↔ ms.length = n ∧ ∀ j m, ms[j]? = some m → paramMode v d (k + j) = .ok m := by
  induction n generalizing k ms with
  | zero => cases ms <;> simp [paramModes]
  | succ n ih =>
    rw [paramModes_succ_ok_iff]
    constructor
    · rintro ⟨m, ms', rfl, hm, hms⟩
      obtain ⟨hlen, htail⟩ := ih.mp hms
      refine ⟨by rw [List.length_cons, hlen], fun j m' hj => ?_⟩
      cases j with
      | zero => rw [← Option.some.inj hj]; exact hm
      | succ j => rw [← Nat.succ_add_eq_add_succ]; exact htail j m' hj
    · rintro ⟨hlen, hall⟩
      obtain ⟨m, ms', rfl⟩ := List.exists_cons_of_length_eq_add_one hlen
      refine ⟨m, ms', rfl, hall 0 m rfl, ih.mpr ⟨Nat.succ.inj hlen, fun j m' hj => ?_⟩⟩
      rw [Nat.succ_add_eq_add_succ]
      exact hall (j + 1) m' hj

/-- The first refusal in parameter order is the one that counts (R58). -/
theorem paramModes_error_of_first {n k j : Nat} {c : Cause} (hj : j < n)
    (hpass : ∀ i < j, ∃ m, paramMode v d (k + i) = .ok m) (herr : paramMode v d (k + j) = .error c) :
    paramModes v d k n = .error c := by
  induction j generalizing n k with
  | zero =>
    obtain ⟨n, rfl⟩ := Nat.exists_eq_succ_of_ne_zero (Nat.ne_zero_of_lt hj)
    exact paramModes_succ_of_error herr
  | succ j ih =>
    obtain ⟨n, rfl⟩ := Nat.exists_eq_succ_of_ne_zero (Nat.ne_zero_of_lt hj)
    obtain ⟨m, hm⟩ := hpass 0 j.succ_pos
    refine (paramModes_succ_error_iff_of_ok hm).mpr (ih (Nat.lt_of_succ_lt_succ hj) (fun i hi => ?_) ?_)
    · rw [Nat.succ_add_eq_add_succ]
      exact hpass (i + 1) (Nat.succ_lt_succ hi)
    · rwa [Nat.succ_add_eq_add_succ]

theorem paramModes_error_cause {n k : Nat} {c : Cause} (h : paramModes v d k n = .error c) :
    c = .illegalMode ∨ c = .immediateDestination := by
  induction n generalizing k with
  | zero => cases h
  | succ n ih =>
    cases hm : paramMode v d k with
    | error c' =>
      obtain rfl : c' = c := by simpa [paramModes_succ_of_error hm] using h
      exact paramMode_error_cause hm
    | ok m => exact ih ((paramModes_succ_error_iff_of_ok hm).mp h)

theorem paramModes_congr {n k : Nat} (h : ∀ j < n, digit v (k + j + 1) = digit v' (k + j + 1)) :
    paramModes v d k n = paramModes v' d k n := by
  induction n generalizing k with
  | zero => rfl
  | succ n ih =>
    have htail : paramModes v d (k + 1) n = paramModes v' d (k + 1) n := ih fun j hj => by
      rw [Nat.succ_add_eq_add_succ]
      exact h (j + 1) (Nat.succ_lt_succ hj)
    simp only [paramModes, paramMode_congr (h 0 n.succ_pos), htail]

/-! ### the opcode table -/

/-- The index of the destination parameter, which is an instruction's last (R51). -/
def Instr.destIndex (i : Instr) : Option Nat := i.destMode.map fun _ => i.modes.length

theorem paramTable_opcode (i : Instr) : paramTable i.opcode = some (i.modes.length, i.destIndex) := by
  cases i <;> rfl

theorem paramTable_eq_none_iff {x : Nat} : paramTable x = none ↔ x ∉ [1, 2, 3, 4, 5, 6, 7, 8, 9, 99] := by
  unfold paramTable
  split <;> simp_all

/-- A decoded instruction is its opcode and its modes (R28, R62). -/
theorem Instr.eq_of_opcode_of_modes {i j : Instr} (hop : i.opcode = j.opcode) (hmodes : i.modes = j.modes) : i = j := by
  cases i <;> cases j <;> simp_all [Instr.opcode, Instr.modes]

theorem Instr.destMode_mem_modes {i : Instr} {m : Mode} (h : i.destMode = some m) : i.modes.getLast? = some m := by
  cases i <;> simp_all [Instr.destMode, Instr.modes]

/-- An instruction is well formed when the mode of its destination parameter is a destination's. -/
theorem Instr.wellFormed_iff {i : Instr} :
    i.wellFormed = true ↔ ∀ j m, i.modes[j]? = some m → i.destIndex = some (1 + j) → m.isDestination = true := by
  unfold Instr.wellFormed Instr.destIndex
  cases hd : i.destMode with
  | none => simp
  | some m =>
    have hlast := Instr.destMode_mem_modes hd
    rw [List.getLast?_eq_getElem?] at hlast
    constructor
    · intro hm j m' hj hlen
      obtain rfl : i.modes.length - 1 = j := by
        have hlen' : i.modes.length = 1 + j := Option.some.inj hlen
        omega
      rwa [← Option.some.inj (hlast.symm.trans hj)]
    · intro h
      obtain ⟨hlt, -⟩ := List.getElem?_eq_some_iff.mp hlast
      have hlen : i.modes.length = 1 + (i.modes.length - 1) := by omega
      exact h _ m hlast (congrArg some hlen)

end Sys2Proof
end

section
/-!
The decoder as one table: each opcode's checks are the mode checks of its parameters in order and then the check of the
unused digits. Every statement about decoding is read off here (R57 to R63).
-/

namespace Sys2Proof

open Sys2Proof.Machine

variable {v n : Nat} {d : Option Nat} {strict : Bool} {w : Word} {i : Instr} {c : Cause}

/-! ### the unused digits -/

theorem checkUnused_ok_iff {j : Instr} :
    checkUnused strict v n i = .ok j ↔ i = j ∧ (strict = true → v / 10 ^ (n + 2) = 0) := by
  by_cases h : v / 10 ^ (n + 2) = 0 <;> cases strict <;> simp [checkUnused, h]

theorem checkUnused_lenient : checkUnused false v n i = .ok i := rfl

theorem checkUnused_strict_of_ne (h : v / 10 ^ (n + 2) ≠ 0) : checkUnused true v n i = .error .illegalMode := by
  simp [checkUnused, h]

theorem checkUnused_error_cause (h : checkUnused strict v n i = .error c) : c = .illegalMode := by
  unfold checkUnused at h
  split at h <;> cases h
  rfl

/-! ### one row of the table -/

/-- `decoder` decodes the word `v` by the row of the table with `n` parameters and the destination `d`: it refuses what
the mode checks refuse, and else has one instruction, of the opcode and the modes of `v`, up to the unused digits. -/
inductive DecodesBy (v n : Nat) (d : Option Nat) (decoder : Bool → Except Cause Instr) : Prop
  | refused (c : Cause) (modes : paramModes v d 1 n = .error c) (result : ∀ strict, decoder strict = .error c)
  | accepted (i : Instr) (opcode : i.opcode = opcodeDigits v) (modes : paramModes v d 1 n = .ok i.modes)
      (result : ∀ strict, decoder strict = checkUnused strict v i.modes.length i)

theorem decodesBy_decodeS {mk : Mode → Instr} (hop : ∀ m1, (mk m1).opcode = opcodeDigits v)
    (hmodes : ∀ m1, (mk m1).modes = [m1]) : DecodesBy v 1 none (decodeS · v mk) := by
  cases h1 : sourceMode v 1 with
  | error c => exact .refused c (by simp [paramModes, paramMode, h1]) (by simp [decodeS, h1])
  | ok m1 =>
    exact .accepted (mk m1) (hop m1) (by simp [paramModes, paramMode, h1, hmodes])
      (by simp [decodeS, h1, hmodes])

theorem decodesBy_decodeD {mk : Mode → Instr} (hop : ∀ m1, (mk m1).opcode = opcodeDigits v)
    (hmodes : ∀ m1, (mk m1).modes = [m1]) : DecodesBy v 1 (some 1) (decodeD · v mk) := by
  cases h1 : destinationMode v 1 with
  | error c => exact .refused c (by simp [paramModes, paramMode, h1]) (by simp [decodeD, h1])
  | ok m1 =>
    exact .accepted (mk m1) (hop m1) (by simp [paramModes, paramMode, h1, hmodes])
      (by simp [decodeD, h1, hmodes])

theorem decodesBy_decodeSS {mk : Mode → Mode → Instr} (hop : ∀ m1 m2, (mk m1 m2).opcode = opcodeDigits v)
    (hmodes : ∀ m1 m2, (mk m1 m2).modes = [m1, m2]) : DecodesBy v 2 none (decodeSS · v mk) := by
  cases h1 : sourceMode v 1 with
  | error c => exact .refused c (by simp [paramModes, paramMode, h1]) (by simp [decodeSS, h1])
  | ok m1 =>
    cases h2 : sourceMode v 2 with
    | error c => exact .refused c (by simp [paramModes, paramMode, h1, h2]) (by simp [decodeSS, h1, h2])
    | ok m2 =>
      exact .accepted (mk m1 m2) (hop m1 m2) (by simp [paramModes, paramMode, h1, h2, hmodes])
        (by simp [decodeSS, h1, h2, hmodes])

theorem decodesBy_decodeSSD {mk : Mode → Mode → Mode → Instr}
    (hop : ∀ m1 m2 m3, (mk m1 m2 m3).opcode = opcodeDigits v)
    (hmodes : ∀ m1 m2 m3, (mk m1 m2 m3).modes = [m1, m2, m3]) : DecodesBy v 3 (some 3) (decodeSSD · v mk) := by
  cases h1 : sourceMode v 1 with
  | error c => exact .refused c (by simp [paramModes, paramMode, h1]) (by simp [decodeSSD, h1])
  | ok m1 =>
    cases h2 : sourceMode v 2 with
    | error c => exact .refused c (by simp [paramModes, paramMode, h1, h2]) (by simp [decodeSSD, h1, h2])
    | ok m2 =>
      cases h3 : destinationMode v 3 with
      | error c => exact .refused c (by simp [paramModes, paramMode, h1, h2, h3]) (by simp [decodeSSD, h1, h2, h3])
      | ok m3 =>
        exact .accepted (mk m1 m2 m3) (hop m1 m2 m3) (by simp [paramModes, paramMode, h1, h2, h3, hmodes])
          (by simp [decodeSSD, h1, h2, h3, hmodes])

/-- The decoder follows the opcode table (R56, R62). -/
theorem decodeNat_decodesBy (h : paramTable (opcodeDigits v) = some (n, d)) : DecodesBy v n d (decodeNat · v) := by
  unfold paramTable at h
  split at h <;> cases h
  all_goals simp only [decodeNat, *]
  case h_1 hop | h_2 hop | h_7 hop | h_8 hop =>
    exact decodesBy_decodeSSD (fun _ _ _ => hop.symm) fun _ _ _ => rfl
  case h_3 hop => exact decodesBy_decodeD (fun _ => hop.symm) fun _ => rfl
  case h_4 hop | h_9 hop => exact decodesBy_decodeS (fun _ => hop.symm) fun _ => rfl
  case h_5 hop | h_6 hop => exact decodesBy_decodeSS (fun _ _ => hop.symm) fun _ _ => rfl
  case h_10 hop => exact .accepted .halt hop.symm rfl fun _ => rfl

/-- A word whose low two digits are in no row is an illegal opcode (R57). -/
theorem decodeNat_of_no_row (h : paramTable (opcodeDigits v) = none) : decodeNat strict v = .error .illegalOpcode := by
  unfold paramTable at h
  split at h <;> cases h
  unfold decodeNat
  split <;> simp_all

/-! ### the decoder on words -/

theorem decode_of_neg (h : w.toInt < 0) : decode strict w = .error .illegalOpcode := if_pos h

theorem decode_of_nonneg (h : 0 ≤ w.toInt) : decode strict w = decodeNat strict w.toNat := if_neg h.not_gt

/-- Every word is an illegal opcode (R57), or is decoded by a row of the table. -/
theorem decode_cases (w : Word) :
    ((w.toInt < 0 ∨ paramTable (opcodeDigits w.toNat) = none) ∧
      ∀ strict, decode strict w = .error .illegalOpcode) ∨
    (0 ≤ w.toInt ∧
      ∃ n d, paramTable (opcodeDigits w.toNat) = some (n, d) ∧ DecodesBy w.toNat n d (decode · w)) := by
  rcases lt_or_ge w.toInt 0 with hneg | hnonneg
  · exact .inl ⟨.inl hneg, fun _ => decode_of_neg hneg⟩
  · simp only [decode_of_nonneg hnonneg]
    cases htable : paramTable (opcodeDigits w.toNat) with
    | none => exact .inl ⟨.inr rfl, fun _ => decodeNat_of_no_row htable⟩
    | some row => exact .inr ⟨hnonneg, row.1, row.2, rfl, decodeNat_decodesBy htable⟩

/-- A word with the opcode of `i`, whose mode checks give the modes of `i`, decodes to `i`, up to the unused digits. -/
theorem decode_of_modes (h0 : 0 ≤ w.toInt) (hop : i.opcode = opcodeDigits w.toNat)
    (hmodes : paramModes w.toNat i.destIndex 1 i.modes.length = .ok i.modes) :
    decode strict w = checkUnused strict w.toNat i.modes.length i := by
  rw [decode_of_nonneg h0]
  cases decodeNat_decodesBy (hop ▸ paramTable_opcode i) with
  | refused c herr _ => rw [hmodes] at herr; cases herr
  | accepted j hop' hmodes' result =>
    obtain rfl := Instr.eq_of_opcode_of_modes (hop'.trans hop.symm) (Except.ok.inj (hmodes'.symm.trans hmodes))
    exact result strict

/-- A word that decodes to `i` has the opcode and the modes of `i`. -/
theorem modes_of_decode (h : decode strict w = .ok i) :
    0 ≤ w.toInt ∧ i.opcode = opcodeDigits w.toNat ∧
      paramModes w.toNat i.destIndex 1 i.modes.length = .ok i.modes := by
  rcases decode_cases w with ⟨-, herr⟩ | ⟨h0, n, d, htable, hrow⟩
  · rw [herr] at h; cases h
  · cases hrow with
    | refused c _ result => rw [result] at h; cases h
    | accepted j hop hmodes result =>
      obtain ⟨rfl, -⟩ := checkUnused_ok_iff.mp ((result strict).symm.trans h)
      rw [← hop, paramTable_opcode] at htable
      cases htable
      exact ⟨h0, hop, hmodes⟩

theorem decode_ok_iff : decode strict w = .ok i ↔ 0 ≤ w.toInt ∧ i.opcode = opcodeDigits w.toNat ∧
    paramModes w.toNat i.destIndex 1 i.modes.length = .ok i.modes ∧
    (strict = true → w.toNat / 10 ^ (i.modes.length + 2) = 0) := by
  constructor
  · intro h
    obtain ⟨h0, hop, hmodes⟩ := modes_of_decode h
    rw [decode_of_modes h0 hop hmodes, checkUnused_ok_iff] at h
    exact ⟨h0, hop, hmodes, h.2⟩
  · rintro ⟨h0, hop, hmodes, hstrict⟩
    rw [decode_of_modes h0 hop hmodes, checkUnused_ok_iff]
    exact ⟨rfl, hstrict⟩

/-- The modes of `i` pass the checks for `v` exactly when `i` is well formed and `v` has their digits (R52, R58). -/
theorem paramModes_modes_iff : paramModes v i.destIndex 1 i.modes.length = .ok i.modes ↔
    i.wellFormed = true ∧ ∀ k m, i.modes[k]? = some m → digit v (k + 2) = m.digit := by
  have hidx (j : Nat) : 1 + j + 1 = j + 2 := by omega
  simp only [paramModes_ok_iff, paramMode_ok_iff, Instr.wellFormed_iff, hidx, true_and]
  exact ⟨fun h => ⟨fun j m hj => (h j m hj).2, fun j m hj => (h j m hj).1⟩,
    fun ⟨hwf, hdigits⟩ j m hj => ⟨hdigits j m hj, hwf j m hj⟩⟩

/-- Settles O2: the modes that pass the checks are those of a well-formed instruction whose digits the word has. -/
theorem decodeAcceptsExactlyLegalWords : Obligations.DecodeAcceptsExactlyLegalWords := by
  intro strict w i
  rw [decode_ok_iff, paramModes_modes_iff, and_assoc, eq_comm (a := i.opcode)]
  rfl

theorem wellFormed_of_decode (h : decode strict w = .ok i) : i.wellFormed = true :=
  (paramModes_modes_iff.mp (modes_of_decode h).2.2).1

/-! ### encoding -/

theorem wordDigits (i : Instr) : Laws.WordDigits.Statement i := by
  cases i with
  | add => exact Laws.WordDigits.add ..
  | mul => exact Laws.WordDigits.mul ..
  | input => exact Laws.WordDigits.input ..
  | output => exact Laws.WordDigits.output ..
  | jumpIfTrue => exact Laws.WordDigits.jumpIfTrue ..
  | jumpIfFalse => exact Laws.WordDigits.jumpIfFalse ..
  | lessThan => exact Laws.WordDigits.lessThan ..
  | equals => exact Laws.WordDigits.equals ..
  | adjustBase => exact Laws.WordDigits.adjustBase ..
  | halt => exact Laws.WordDigits.halt

theorem encode_toNat (i : Instr) : (encode i).toNat = encodeNat i := by
  obtain ⟨-, -, hlt, -⟩ := wordDigits i
  rw [encode, BitVec.toNat_ofNat]
  omega

theorem encode_toInt_nonneg (i : Instr) : 0 ≤ (encode i).toInt := by
  obtain ⟨-, -, hlt, -⟩ := wordDigits i
  have := encode_toNat i
  rw [BitVec.toInt_eq_toNat_of_lt (by omega)]
  omega

/-- The word of an instruction has no digit above those of its modes (R63 "Absent modes are 0"). -/
theorem encodeNat_unused_digits (i : Instr) : encodeNat i / 10 ^ (i.modes.length + 2) = 0 := by
  obtain ⟨-, hmodes, -, -⟩ := wordDigits i
  have hsplit : 10 ^ (i.modes.length + 2) = 100 * 10 ^ i.modes.length := by rw [pow_add, mul_comm]; norm_num
  rw [hsplit, ← Nat.div_div_eq_div_mul, hmodes]
  exact Nat.div_eq_of_lt (modeDigits_lt _)

/-- Settles O1: the word of a well-formed instruction has its opcode, its mode digits and nothing above them, which by
`decode_ok_iff` is what decoding to it asks. -/
theorem encodedWordDecodesToItself : Obligations.EncodedWordDecodesToItself := by
  intro i strict hwf
  obtain ⟨hop, hmodes, -, -⟩ := wordDigits i
  refine decode_ok_iff.mpr ⟨encode_toInt_nonneg i, ?_, ?_, fun _ => ?_⟩ <;> rw [encode_toNat]
  · exact hop.symm
  · refine paramModes_modes_iff.mpr ⟨hwf, fun k m hk => ?_⟩
    rw [digit_add_two, hmodes, digit_modeDigits hk]
  · exact encodeNat_unused_digits i

theorem encode_toNat_of_modes_one {m1 : Mode} (h : i.modes = [m1]) : (encode i).toNat = i.opcode + 100 * m1.digit := by
  simp [encode_toNat, encodeNat, h, modeDigits]

theorem encode_toNat_of_modes_two {m1 m2 : Mode} (h : i.modes = [m1, m2]) :
    (encode i).toNat = i.opcode + 100 * m1.digit + 1000 * m2.digit := by
  simp only [encode_toNat, encodeNat, h, modeDigits]
  ring

theorem encode_toNat_of_modes_three {m1 m2 m3 : Mode} (h : i.modes = [m1, m2, m3]) :
    (encode i).toNat = i.opcode + 100 * m1.digit + 1000 * m2.digit + 10000 * m3.digit := by
  simp only [encode_toNat, encodeNat, h, modeDigits]
  ring

/-- Settles O7: the formula is `encodeNat`, which fits in a word, for each count of modes; the worked encodings are
decoded by evaluation. -/
theorem wordsFollowTheDigitFormula : Obligations.WordsFollowTheDigitFormula :=
  ⟨fun _ _ _ => encode_toNat_of_modes_three rfl, fun _ _ _ => encode_toNat_of_modes_three rfl,
    fun _ => encode_toNat_of_modes_one rfl, fun _ => encode_toNat_of_modes_one rfl,
    fun _ _ => encode_toNat_of_modes_two rfl, fun _ _ => encode_toNat_of_modes_two rfl,
    fun _ _ _ => encode_toNat_of_modes_three rfl, fun _ _ _ => encode_toNat_of_modes_three rfl,
    fun _ => encode_toNat_of_modes_one rfl, rfl, rfl, rfl, rfl, rfl, rfl, rfl, rfl, rfl⟩

/-! ### the faults of fetch and decode -/

/-- At an address, fetch faults exactly with what decode refuses the word at `ip` for. -/
theorem fetch_eq_error_iff {s : State} (hip : s.ip ≤ addrMax) :
    fetch s = .error { cause := c, info := (s.load s.ip).toInt } ↔
      decode s.cfg.strictUnusedModes (s.load s.ip) = .error c := by
  refine ⟨fun h => ?_, fetch_of_decode_error hip⟩
  rcases fetch_error h with ⟨hgt, -⟩ | ⟨-, c', hd, hr⟩
  · exact absurd hip hgt.not_ge
  · cases hr; exact hd

/-- A row of the table never refuses an opcode. -/
theorem DecodesBy.cases_result {decoder : Bool → Except Cause Instr} (h : DecodesBy v n d decoder) (strict : Bool) :
    (∃ i, decoder strict = .ok i) ∨ decoder strict = .error .illegalMode ∨
      decoder strict = .error .immediateDestination := by
  cases h with
  | refused c hmodes result => rcases paramModes_error_cause hmodes with rfl | rfl <;> simp [result]
  | accepted i _ _ result =>
    cases hcheck : checkUnused strict v i.modes.length i with
    | error c => obtain rfl := checkUnused_error_cause hcheck; simp [result, hcheck]
    | ok j => simp [result, hcheck]

theorem decode_eq_illegalOpcode_iff : decode strict w = .error .illegalOpcode ↔
    w.toInt < 0 ∨ paramTable (opcodeDigits w.toNat) = none := by
  rcases decode_cases w with ⟨hill, herr⟩ | ⟨h0, n, d, htable, hrow⟩
  · simp [herr, hill]
  · rcases hrow.cases_result strict with ⟨i, hd⟩ | hd | hd <;> simp [hd, htable, h0]

/-- Settles O3: fetch passes on what decode refuses, and a row of the table never refuses an opcode. -/
theorem illegalOpcodeRaisedExactly : Obligations.IllegalOpcodeRaisedExactly := by
  intro s hip
  rw [fetch_eq_error_iff hip, decode_eq_illegalOpcode_iff, paramTable_eq_none_iff]
  rfl

/-- Settles O6: a word is refused for its opcode, or a row of the table decides it. -/
theorem everyWordDecodesOrFaults : Obligations.EveryWordDecodesOrFaults := by
  intro strict w
  rcases decode_cases w with ⟨-, herr⟩ | ⟨-, n, d, -, hrow⟩
  · exact .inr (.inl (herr strict))
  · rcases hrow.cases_result strict with ⟨i, hd⟩ | hd | hd
    · exact .inl ⟨i, hd, wellFormed_of_decode hd⟩
    · exact .inr (.inr (.inl hd))
    · exact .inr (.inr (.inr hd))

/-- What the mode checks of a word's row refuse, decode refuses. -/
theorem decode_of_modes_refused (h0 : 0 ≤ w.toInt) (htable : paramTable (opcodeDigits w.toNat) = some (n, d))
    (herr : paramModes w.toNat d 1 n = .error c) : decode strict w = .error c := by
  rw [decode_of_nonneg h0]
  cases decodeNat_decodesBy htable with
  | refused c' herr' result => rw [result, Except.error.inj (herr'.symm.trans herr)]
  | accepted i _ hmodes _ => rw [hmodes] at herr; cases herr

/-- Settles O4: the parameters before `k` pass, so what parameter `k` is refused for is the first refusal. -/
theorem modeDigitsCheckedInOrder : Obligations.ModeDigitsCheckedInOrder := by
  intro s n d k hip h0 htable hk1 hkn hpass
  obtain ⟨j, rfl⟩ := Nat.exists_eq_add_of_le hk1
  have first {c : Cause} (herr : paramMode (s.load s.ip).toNat d (1 + j) = .error c) :
      fetch s = .error { cause := c, info := (s.load s.ip).toInt } := by
    have hmodes := paramModes_error_of_first (j := j) (n := n) (by omega)
      (fun i hi => paramMode_of_passes (hpass (1 + i) (by omega) (by omega))) herr
    exact fetch_of_decode_error hip (decode_of_modes_refused h0 htable hmodes)
  exact ⟨fun hdigit => first (paramMode_of_illegal hdigit),
    fun hd hdigit => first (paramMode_of_immediate hd hdigit)⟩

/-! ### STRICT_UNUSED_MODES -/

/-- STRICT_UNUSED_MODES lifts no refusal: its check comes after every other (R59). -/
theorem decode_error_of_lenient (h : decode false w = .error c) (strict : Bool) : decode strict w = .error c := by
  rcases decode_cases w with ⟨-, herr⟩ | ⟨-, n, d, -, hrow⟩
  · rw [herr] at h ⊢; exact h
  · cases hrow with
    | refused c' _ result => rw [result] at h ⊢; exact h
    | accepted i _ _ result => rw [result] at h; cases h

theorem decode_of_lenient (h : decode false w = .ok i) (strict : Bool) :
    decode strict w = checkUnused strict w.toNat i.modes.length i := by
  obtain ⟨h0, hop, hmodes⟩ := modes_of_decode h
  exact decode_of_modes h0 hop hmodes

/-- Without STRICT_UNUSED_MODES the digits above the parameters' are not read (R59). -/
theorem decode_lenient_congr {w' : Word} (h0 : 0 ≤ w.toInt) (h0' : 0 ≤ w'.toInt)
    (htable : paramTable (opcodeDigits w.toNat) = some (n, d))
    (h : w.toNat % 10 ^ (n + 2) = w'.toNat % 10 ^ (n + 2)) : decode false w = decode false w' := by
  have hop : opcodeDigits w.toNat = opcodeDigits w'.toNat := mod_pow_eq_of_mod_pow_eq h (Nat.le_add_left 2 n)
  have hmodes : paramModes w.toNat d 1 n = paramModes w'.toNat d 1 n :=
    paramModes_congr fun j hj => digit_eq_of_mod_pow_eq h (by omega)
  rw [decode_of_nonneg h0]
  cases decodeNat_decodesBy htable with
  | refused c herr result => rw [result, decode_of_modes_refused h0' (hop ▸ htable) (hmodes ▸ herr)]
  | accepted i hopi hok result =>
    rw [← hopi, paramTable_opcode] at htable
    cases htable
    rw [result, decode_of_modes h0' (hopi.trans hop) (hmodes ▸ hok), checkUnused_lenient, checkUnused_lenient]

/-- Settles O5: the table reads no digit above the parameters'; the strict check of them comes last. -/
theorem unusedDigitsIgnoredUnlessStrict : Obligations.UnusedDigitsIgnoredUnlessStrict := by
  refine ⟨fun w w' n d h0 h0' htable h => decode_lenient_congr h0 h0' htable h,
    fun s hstrict hip => ⟨fun i hd hne => ?nonzero, fun i hd hzero => ?zero, fun c hd => ?refused⟩, rfl, rfl⟩
  case nonzero =>
    exact fetch_of_decode_error hip (by rw [hstrict, decode_of_lenient hd, checkUnused_strict_of_ne hne])
  case zero =>
    refine fetch_of_decode_ok hip ?_
    rw [decode_of_lenient hd, checkUnused_ok_iff]
    exact ⟨rfl, fun _ => hzero⟩
  case refused => exact fetch_of_decode_error hip (decode_error_of_lenient hd _)

end Sys2Proof
end

section
/-!
Resolving one parameter (R53, R54): its word at `ip + k`, the exact address its mode makes of it, and what is there. An
instruction sees its modes only through this (R55).
-/

namespace Sys2Proof.Machine

variable {s : State} {k : Nat} {m : Mode} {a : Int} {lit : Word}

theorem paramWord_of_le (h : s.ip + k ≤ addrMax) : paramWord s k = .ok (s.load (s.ip + k)) := if_pos h

theorem paramWord_of_gt (h : addrMax < s.ip + k) :
    paramWord s k = .error { cause := .invalidAddress, info := (s.ip : Int) + (k : Int) } := by
  rw [paramWord, if_neg h.not_ge, Nat.cast_add]

/-- The mode `m` makes the exact address `a` of the parameter word `lit` (R52). -/
def AddressOf (s : State) (m : Mode) (lit : Word) (a : Int) : Prop :=
  (m = .position ∧ a = lit.toInt) ∨ (m = .relative ∧ a = lit.toInt + s.rb.toInt)

theorem src_of_paramWord_error {r : Raised} (h : paramWord s k = .error r) : src s m k = .error r := by
  simp [src, h]

theorem src_immediate (h : paramWord s k = .ok lit) : src s .immediate k = .ok lit := by
  simp [src, h]

/-- A source with an address reads memory there, once the address is checked (R53). -/
theorem src_of_addressOf (h : paramWord s k = .ok lit) (ha : AddressOf s m lit a) :
    src s m k = (checkAddress a).map s.load := by
  rcases ha with ⟨rfl, rfl⟩ | ⟨rfl, rfl⟩ <;> simp only [src, h] <;> split <;> simp_all [Except.map]

theorem dst_of_paramWord_error {r : Raised} (hm : m ≠ .immediate) (h : paramWord s k = .error r) :
    dst s m k = .error r := by
  cases m with
  | immediate => exact absurd rfl hm
  | position | relative => simp [dst, h]

/-- A destination is its address, once that is checked: memory is not read there (R54). -/
theorem dst_of_addressOf (h : paramWord s k = .ok lit) (ha : AddressOf s m lit a) :
    dst s m k = destinationAddress s a := by
  rcases ha with ⟨rfl, rfl⟩ | ⟨rfl, rfl⟩ <;> simp [dst, h]

theorem destinationAddress_of_invalid (h : ¬ (0 ≤ a ∧ a ≤ wordMax)) :
    destinationAddress s a = .error { cause := .invalidAddress, info := a } := by
  rw [destinationAddress, checkAddress_of_invalid h]

theorem destinationAddress_of_valid (h0 : 0 ≤ a) (h1 : a ≤ wordMax) :
    destinationAddress s a = checkLimit s.cfg.addrLimit a.toNat := by
  rw [destinationAddress, checkAddress_of_valid h0 h1]

theorem checkLimit_of_below {limit : Option Nat} {n : Nat} (h : ∀ l, limit = some l → n < l) :
    checkLimit limit n = .ok n := by
  cases limit with
  | none => rfl
  | some l => exact if_pos (h l rfl)

theorem checkLimit_of_reached {l n : Nat} (h : l ≤ n) :
    checkLimit (some l) n = .error { cause := .capacityExceeded, info := n } :=
  if_neg h.not_gt

/-- Settles O8: the checks of R53 in their order, the parameter word's address before the address made of it. -/
theorem sourceParameterValue : Obligations.SourceParameterValue := by
  refine fun s k => ⟨fun m hgt => src_of_paramWord_error (paramWord_of_gt hgt), fun hle => ?_⟩
  have hword := paramWord_of_le hle
  refine ⟨src_immediate hword, fun m a ha => ⟨fun ⟨h0, h1⟩ => ?valid, fun hout => ?invalid⟩⟩
  case valid => rw [src_of_addressOf hword ha, checkAddress_of_valid h0 h1]; rfl
  case invalid => rw [src_of_addressOf hword ha, checkAddress_of_invalid hout]; rfl

/-- Settles O9: the checks of R54 in their order, the write limit last. -/
theorem destinationParameterAddress : Obligations.DestinationParameterAddress := by
  refine fun s k => ⟨fun m hm hgt => dst_of_paramWord_error hm (paramWord_of_gt hgt), fun hle m a ha => ?_⟩
  rw [dst_of_addressOf (paramWord_of_le hle) ha]
  refine ⟨destinationAddress_of_invalid, fun h0 h1 l hl hreached => ?reached, fun h0 h1 hbelow => ?below⟩
  case reached =>
    rw [destinationAddress_of_valid h0 h1, hl, checkLimit_of_reached (by omega), Int.toNat_of_nonneg h0]
  case below =>
    rw [destinationAddress_of_valid h0 h1]
    exact checkLimit_of_below fun l hl => by have := hbelow l hl; omega

/-! ### what an instruction sees of its modes -/

variable {m1 m2 m3 n1 n2 n3 : Mode}

theorem sources_congr (h1 : src s m1 1 = src s n1 1) (h2 : src s m2 2 = src s n2 2) :
    sources s m1 m2 = sources s n1 n2 := by
  rw [sources, h1, h2, ← sources]

theorem sourcesAndDestination_congr (h1 : src s m1 1 = src s n1 1) (h2 : src s m2 2 = src s n2 2)
    (h3 : dst s m3 3 = dst s n3 3) : sourcesAndDestination s m1 m2 m3 = sourcesAndDestination s n1 n2 n3 := by
  rw [sourcesAndDestination, sources_congr h1 h2, h3, ← sourcesAndDestination]

theorem arithmetic_congr (f : Int → Int → Int)
    (h : sourcesAndDestination s m1 m2 m3 = sourcesAndDestination s n1 n2 n3) :
    arithmetic f s m1 m2 m3 = arithmetic f s n1 n2 n3 := by
  rw [arithmetic, h, ← arithmetic]

theorem comparison_congr (p : Int → Int → Bool)
    (h : sourcesAndDestination s m1 m2 m3 = sourcesAndDestination s n1 n2 n3) :
    comparison p s m1 m2 m3 = comparison p s n1 n2 n3 := by
  rw [comparison, h, ← comparison]

theorem jump_congr (taken : Word → Bool) (h : sources s m1 m2 = sources s n1 n2) :
    jump taken s m1 m2 = jump taken s n1 n2 := by
  rw [jump, h, ← jump]

theorem inputEffect_congr (h : dst s m1 1 = dst s n1 1) : inputEffect s m1 = inputEffect s n1 := by
  rw [inputEffect, h, ← inputEffect]

theorem outputEffect_congr (h : src s m1 1 = src s n1 1) : outputEffect s m1 = outputEffect s n1 := by
  rw [outputEffect, h, ← outputEffect]

theorem adjustBaseEffect_congr (h : src s m1 1 = src s n1 1) : adjustBaseEffect s m1 = adjustBaseEffect s n1 := by
  rw [adjustBaseEffect, h, ← adjustBaseEffect]

/-- Settles O10: each instruction settles an effect whose modes occur only in the resolver. -/
theorem modesMatterOnlyByWhatTheyResolveTo : Obligations.ModesMatterOnlyByWhatTheyResolveTo := by
  intro s m1 m2 m3 n1 n2 n3 h1 h2
  have hs := sources_congr h1 h2
  refine ⟨fun h3 => ?format3, fun hd => congrArg (settle s) (inputEffect_congr hd),
    congrArg (settle s) (outputEffect_congr h1), congrArg (settle s) (adjustBaseEffect_congr h1),
    congrArg (settle s) (jump_congr _ hs), congrArg (settle s) (jump_congr _ hs)⟩
  case format3 =>
    have hsd := sourcesAndDestination_congr h1 h2 h3
    exact ⟨congrArg (settle s) (arithmetic_congr _ hsd), congrArg (settle s) (arithmetic_congr _ hsd),
      congrArg (settle s) (comparison_congr _ hsd), congrArg (settle s) (comparison_congr _ hsd)⟩

end Sys2Proof.Machine
end

section
/-!
One step, computed forward (R67 to R72): from what the host, fetch and the instruction do, what `step` answers. Fault
entry at a step (R69, R70, R75) and the stopped core (R68, R112) are read off here.
-/

namespace Sys2Proof.Machine

variable {i : Instr} {s t : State}

/-! ### what a step answers -/

theorem step_of_stopped {f : Fault} (hhost : hostStep s = none) (hstop : stopped s = some f) : step s = .fault f := by
  simp [step, hhost, hstop]

theorem step_of_fetch_error {r : Raised} (hrun : s.run = .running) (hhost : hostStep s = none)
    (hf : fetch s = .error r) : step s = .next (tick (s.raise r)) := by
  simp [step, hhost, stopped_eq_none.mpr hrun, hf]

theorem step_of_exec (hrun : s.run = .running) (hhost : hostStep s = none) (hf : fetch s = .ok i)
    (ht : exec i s = .next t) : step s = .next (tick t) := by
  simp [step, hhost, stopped_eq_none.mpr hrun, hf, ht]

theorem fetch_of_ip_gt (hip : addrMax < s.ip) : fetch s = .error { cause := .invalidAddress, info := (s.ip : Int) } :=
  if_neg hip.not_ge

/-- A settled effect is never a stop: a fault of the core is a next state too (R75). -/
theorem exists_settle_eq_next (s : State) (e : Except Raised State) : ∃ t, settle s e = .next t := by
  cases e with
  | ok t => exact ⟨t, rfl⟩
  | error r => exact ⟨s.raise r, rfl⟩

/-- Settles O30: halt answers its one state, and every other instruction settles its effect. -/
theorem everyInstructionAnswersANextState : Obligations.EveryInstructionAnswersANextState := by
  intro i s
  cases i with
  | halt => exact ⟨_, rfl⟩
  | _ => exact exists_settle_eq_next s _

/-- Settles O29: fetch passes on the decoded instruction, and `exec` of it answers the state that the step ticks. -/
theorem stepRunsTheDecodedInstruction : Obligations.StepRunsTheDecodedInstruction := by
  intro s i hrun hhost hip hd
  obtain ⟨t, ht⟩ := everyInstructionAnswersANextState i s
  exact ⟨t, ht, step_of_exec hrun hhost (fetch_of_decode_ok hip hd) ht, rfl⟩

/-! ### steps that fault -/

theorem raise_entersFault (s : State) (r : Raised) : EntersFault s (s.raise r) r :=
  ⟨rfl, rfl, rfl, rfl, rfl, rfl, rfl, rfl, rfl, rfl⟩

/-- Settles O25: both are faults of `fetch`, which the step takes. -/
theorem fetchAndDecodeFaultsAreTaken : Obligations.FetchAndDecodeFaultsAreTaken := by
  intro s hrun hhost
  refine ⟨fun hip => ⟨_, ?aboveTop, raise_entersFault s _⟩,
    fun hip c hd => ⟨_, ?illegalWord, raise_entersFault s _⟩⟩
  case aboveTop => exact step_of_fetch_error hrun hhost (fetch_of_ip_gt hip)
  case illegalWord => exact step_of_fetch_error hrun hhost (fetch_of_decode_error hip hd)

/-- Settles O26: of the cases of `step_status` only the taken fault leads from Running to Faulted. -/
theorem faultingStepHasNoEffect : Obligations.FaultingStepHasNoEffect := by
  intro s t h hrun hfaulted
  rcases step_status h with ⟨-, r, rfl⟩ | ⟨-, -, rfl⟩ | ⟨⟨hsame, -, -⟩, -⟩
  · exact ⟨s.raise r, r, rfl, raise_entersFault s r⟩
  · cases hfaulted
  · rw [hsame, hrun] at hfaulted; cases hfaulted

/-! ### the stopped core -/

/-- The only steps of a stopped core are the host's (R68). -/
theorem hostStep_of_step_of_stopped (hrun : s.run ≠ .running) (h : step s = .next t) :
    ∃ u, hostStep s = some u ∧ t = tick u :=
  (step_cases h).resolve_right fun ⟨_, hrunning, _⟩ => hrun hrunning

/-- Settles O31: with no step of the host a stopped core stops the run, and a step of the host leaves the core alone. -/
theorem stoppedCoreStaysStopped : Obligations.StoppedCoreStaysStopped := by
  intro s hrun
  refine ⟨fun hhost hhalted => step_of_stopped hhost (by rw [stopped, hhalted]),
    fun hhost hfaulted => step_of_stopped hhost (by rw [stopped, hfaulted]), fun t h => ?hostMoves⟩
  case hostMoves =>
    obtain ⟨u, hu, rfl⟩ := hostStep_of_step_of_stopped hrun h
    obtain ⟨hmem, hip, hrb, hphase, ⟨hsame, hfault, -⟩, -, -⟩ := hostStepsLeaveTheCore s u hu
    exact ⟨hsame, hfault, hmem, hip, hrb, hphase⟩

end Sys2Proof.Machine
end

section
/-!
Instructions without a hand-off (R67 item 1, R82): resolving and executing them neither reads nor writes the host's
side, so the effect commutes with putting another host beside the core.
-/

namespace Sys2Proof.Machine

variable {s t : State} {m1 m2 m3 : Mode}

/-- The same core, trace and channels beside the host `h`. -/
def State.withHost (s : State) (h : HostSide) : State := { s with host := h }

/-- The effect is the same beside every host, and leaves the host as it is. -/
def IgnoresHost (effect : State → Except Raised State) : Prop :=
  ∀ (s : State) (h : HostSide), effect (s.withHost h) = (effect s).map (·.withHost h)

@[simp] theorem State.withHost_cfg (s : State) (h : HostSide) : (s.withHost h).cfg = s.cfg := rfl

@[simp] theorem State.withHost_rb (s : State) (h : HostSide) : (s.withHost h).rb = s.rb := rfl

@[simp] theorem src_withHost (s : State) (h : HostSide) (m : Mode) (k : Nat) : src (s.withHost h) m k = src s m k := rfl

@[simp] theorem sources_withHost (s : State) (h : HostSide) (m1 m2 : Mode) :
    sources (s.withHost h) m1 m2 = sources s m1 m2 := rfl

@[simp] theorem sourcesAndDestination_withHost (s : State) (h : HostSide) (m1 m2 m3 : Mode) :
    sourcesAndDestination (s.withHost h) m1 m2 m3 = sourcesAndDestination s m1 m2 m3 := rfl

theorem arithmetic_ignoresHost (f : Int → Int → Int) : IgnoresHost (arithmetic f · m1 m2 m3) := by
  intro s h
  simp only [arithmetic, sourcesAndDestination_withHost, State.withHost_cfg]
  cases sourcesAndDestination s m1 m2 m3 with
  | error r => rfl
  | ok v =>
    dsimp only
    cases toWord s.cfg.overflow (f v.1.toInt v.2.1.toInt) <;> rfl

theorem comparison_ignoresHost (p : Int → Int → Bool) : IgnoresHost (comparison p · m1 m2 m3) := by
  intro s h
  simp only [comparison, sourcesAndDestination_withHost]
  cases sourcesAndDestination s m1 m2 m3 <;> rfl

theorem jump_ignoresHost (taken : Word → Bool) : IgnoresHost (jump taken · m1 m2) := by
  intro s h
  simp only [jump, sources_withHost]
  cases sources s m1 m2 with
  | error r => rfl
  | ok v => dsimp only; split_ifs <;> rfl

theorem adjustBaseEffect_ignoresHost : IgnoresHost (adjustBaseEffect · m1) := by
  intro s h
  simp only [adjustBaseEffect, src_withHost, State.withHost_cfg, State.withHost_rb]
  cases src s m1 1 with
  | error r => rfl
  | ok v1 =>
    dsimp only
    cases toWord s.cfg.overflow (s.rb.toInt + v1.toInt) <;> rfl

/-- What settles from an effect that ignores the host is the same beside every host. -/
theorem IgnoresHost.settle_withHost {effect : State → Except Raised State} (he : IgnoresHost effect)
    (hs : settle s (effect s) = .next t) (h : HostSide) :
    settle (s.withHost h) (effect (s.withHost h)) = .next (t.withHost h) := by
  rw [he]
  rcases settle_next.mp hs with ht | ⟨r, hr, rfl⟩
  · rw [ht]; rfl
  · rw [hr]; rfl

/-- Settles O40: halt closes the channels whatever the host is, and each of the other instructions without a hand-off
settles an effect that ignores the host. -/
theorem otherInstructionsIgnoreTheHost : Obligations.OtherInstructionsIgnoreTheHost := by
  intro i s t h hin hout ht
  cases i with
  | add | mul => exact (arithmetic_ignoresHost _).settle_withHost ht h
  | input m1 => exact absurd rfl (hin m1)
  | output m1 => exact absurd rfl (hout m1)
  | jumpIfTrue | jumpIfFalse => exact (jump_ignoresHost _).settle_withHost ht h
  | lessThan | equals => exact (comparison_ignoresHost _).settle_withHost ht h
  | adjustBase => exact adjustBaseEffect_ignoresHost.settle_withHost ht h
  | halt => cases ht; rfl

end Sys2Proof.Machine
end

section
/-!
add and mul (R78 to R80): each settles the arithmetic of its exact operation. What that writes or raises is said once for
every operation, and so is what swapping and regrouping the operands keeps.
-/

namespace Sys2Proof.Machine

variable {i : Instr} {s u t : State} {m1 m2 m3 n1 n2 n3 : Mode} {v1 v2 : Word} {a : Nat} {r : Raised}
  {op : Mode → Mode → Mode → Instr} {f : Int → Int → Int}

/-! ### the word of format F3 -/

/-- The word of a format F3 instruction decodes to it in both settings of R59, when its destination is no immediate. -/
theorem decode_word_of_modes_three (hmodes : i.modes = [m1, m2, m3]) (hdest : i.destMode = some m3)
    (hne : m3 ≠ .immediate) (strict : Bool) :
    decode strict (BitVec.ofNat 64 (i.opcode + 100 * m1.digit + 1000 * m2.digit + 10000 * m3.digit)) = .ok i := by
  have hwf : i.wellFormed = true := by
    simp only [Instr.wellFormed, hdest]
    cases m3 with
    | immediate => exact absurd rfl hne
    | position | relative => rfl
  rw [← encode_toNat_of_modes_three hmodes, BitVec.ofNat_toNat, BitVec.setWidth_eq]
  exact encodedWordDecodesToItself i strict hwf

/-! ### the two ways a format F3 instruction ends -/

theorem execWrites_of_store {v : Word} (h : exec i s = .next ((s.store a v).advance 4)) : ExecWrites i s a v :=
  ⟨_, h, s.load_store_self a v, fun _ hb => s.load_store_of_ne a v hb, rfl, rfl, ⟨rfl, rfl, rfl⟩, rfl, rfl, rfl, rfl⟩

theorem execFaults_of_raise (h : exec i s = .next (s.raise r)) : ExecFaults i s r :=
  ⟨_, h, raise_entersFault s r⟩

/-! ### what arithmetic answers -/

/-- Once the parameters resolve, `toWord` decides between the write and the fault (R78, R79). -/
theorem arithmetic_of_resolves (f : Int → Int → Int) (hr : ResolvesSSD s m1 m2 m3 v1 v2 a) :
    arithmetic f s m1 m2 m3 =
      (toWord s.cfg.overflow (f v1.toInt v2.toInt)).map fun w => (s.store a w).advance 4 := by
  simp only [arithmetic, sourcesAndDestination_ok_iff.mpr hr]
  cases toWord s.cfg.overflow (f v1.toInt v2.toInt) <;> rfl

theorem arithmetic_of_firstFault (f : Int → Int → Int) (h : FirstFaultSSD s m1 m2 m3 r) :
    arithmetic f s m1 m2 m3 = .error r := by
  rw [arithmetic, sourcesAndDestination_error_iff.mpr h]

/-- `toWord` reduces under wrap, and in range under both settings (R11). -/
theorem toWord_of_wrap_or_inRange {o : Overflow} {x : Int} (h : o = .wrap ∨ (wordMin ≤ x ∧ x ≤ wordMax)) :
    toWord o x = .ok (BitVec.ofInt 64 x) := by
  rcases h with rfl | hx
  · exact toWord_wrap x
  · exact toWord_inRange o hx

/-! ### instructions that settle an arithmetic effect -/

/-- The exact result of `f` on the values of two words, reduced to a word (R11). -/
def reduced (f : Int → Int → Int) (x y : Word) : Word := BitVec.ofInt 64 (f x.toInt y.toInt)

/-- Each form of `op` settles the arithmetic of the exact operation `f`. -/
def ExecutesArithmetic (op : Mode → Mode → Mode → Instr) (f : Int → Int → Int) : Prop :=
  ∀ m1 m2 m3 s, exec (op m1 m2 m3) s = settle s (arithmetic f s m1 m2 m3)

theorem add_executesArithmetic : ExecutesArithmetic .add (· + ·) := fun _ _ _ _ => rfl

theorem mul_executesArithmetic : ExecutesArithmetic .mul (· * ·) := fun _ _ _ _ => rfl

theorem ExecutesArithmetic.writes {w : Word} (hop : ExecutesArithmetic op f) (hr : ResolvesSSD s m1 m2 m3 v1 v2 a)
    (hw : toWord s.cfg.overflow (f v1.toInt v2.toInt) = .ok w) : ExecWrites (op m1 m2 m3) s a w :=
  execWrites_of_store (by rw [hop, arithmetic_of_resolves f hr, hw]; rfl)

theorem ExecutesArithmetic.raises (hop : ExecutesArithmetic op f) (hr : ResolvesSSD s m1 m2 m3 v1 v2 a)
    (hw : toWord s.cfg.overflow (f v1.toInt v2.toInt) = .error r) : ExecFaults (op m1 m2 m3) s r :=
  execFaults_of_raise (by rw [hop, arithmetic_of_resolves f hr, hw]; rfl)

theorem ExecutesArithmetic.faults (hop : ExecutesArithmetic op f) (h : FirstFaultSSD s m1 m2 m3 r) :
    ExecFaults (op m1 m2 m3) s r :=
  execFaults_of_raise (by rw [hop, arithmetic_of_firstFault f h]; rfl)

theorem ExecutesArithmetic.writes_reduced (hop : ExecutesArithmetic op f) (hr : ResolvesSSD s m1 m2 m3 v1 v2 a)
    (h : s.cfg.overflow = .wrap ∨ (wordMin ≤ f v1.toInt v2.toInt ∧ f v1.toInt v2.toInt ≤ wordMax)) :
    ExecWrites (op m1 m2 m3) s a (reduced f v1 v2) :=
  hop.writes hr (toWord_of_wrap_or_inRange h)

theorem ExecutesArithmetic.raises_overflow (hop : ExecutesArithmetic op f) (hr : ResolvesSSD s m1 m2 m3 v1 v2 a)
    (ho : s.cfg.overflow = .fault) (h : ¬ (wordMin ≤ f v1.toInt v2.toInt ∧ f v1.toInt v2.toInt ≤ wordMax)) :
    ExecFaults (op m1 m2 m3) s { cause := .arithmeticOverflow, info := f v1.toInt v2.toInt } :=
  hop.raises hr (by rw [ho, toWord_fault_outOfRange h])

/-- Settles O13: add settles the arithmetic of the exact sum. -/
theorem addWritesTheSum : Obligations.AddWritesTheSum := fun m1 m2 m3 _ =>
  ⟨decode_word_of_modes_three (i := .add m1 m2 m3) rfl rfl, fun _ _ _ => add_executesArithmetic.writes_reduced,
    fun _ _ _ => add_executesArithmetic.raises_overflow, fun _ => add_executesArithmetic.faults⟩

/-- Settles O14: mul settles the arithmetic of the exact product. -/
theorem mulWritesTheProduct : Obligations.MulWritesTheProduct := fun m1 m2 m3 _ =>
  ⟨decode_word_of_modes_three (i := .mul m1 m2 m3) rfl rfl, fun _ _ _ => mul_executesArithmetic.writes_reduced,
    fun _ _ _ => mul_executesArithmetic.raises_overflow, fun _ => mul_executesArithmetic.faults⟩

/-! ### swapping the operands -/

/-- A commutative operation has the same effect when its sources resolve the other way round: the same fault of the
destination, or the same exact result. -/
theorem arithmetic_swap (hf : ∀ x y, f x y = f y x) (h1 : src s m1 1 = .ok v1) (h2 : src s m2 2 = .ok v2)
    (k1 : src s n1 1 = .ok v2) (k2 : src s n2 2 = .ok v1) (hd : dst s m3 3 = dst s n3 3) :
    arithmetic f s m1 m2 m3 = arithmetic f s n1 n2 n3 := by
  cases k3 : dst s n3 3 with
  | error r =>
    rw [arithmetic_of_firstFault f (.inr ⟨v1, v2, h1, h2, hd.trans k3⟩),
      arithmetic_of_firstFault f (.inr ⟨v2, v1, k1, k2, k3⟩)]
  | ok a => rw [arithmetic_of_resolves f ⟨h1, h2, hd.trans k3⟩, arithmetic_of_resolves f ⟨k1, k2, k3⟩, hf]

/-- At two states with one setting of OVERFLOW a commutative operation has one exact result, which both write or both
raise. -/
theorem ExecutesArithmetic.swap_outcomes {b : Nat} (hop : ExecutesArithmetic op f) (hf : ∀ x y, f x y = f y x)
    (ho : s.cfg.overflow = u.cfg.overflow) (hs : ResolvesSSD s m1 m2 m3 v1 v2 a)
    (hu : ResolvesSSD u n1 n2 n3 v2 v1 b) :
    (∃ w, ExecWrites (op m1 m2 m3) s a w ∧ ExecWrites (op n1 n2 n3) u b w) ∨
      ∃ x, ExecFaults (op m1 m2 m3) s { cause := .arithmeticOverflow, info := x } ∧
        ExecFaults (op n1 n2 n3) u { cause := .arithmeticOverflow, info := x } := by
  have hswap : toWord u.cfg.overflow (f v2.toInt v1.toInt) = toWord s.cfg.overflow (f v1.toInt v2.toInt) := by
    rw [ho, hf]
  cases hw : toWord s.cfg.overflow (f v1.toInt v2.toInt) with
  | ok w => exact .inl ⟨w, hop.writes hs hw, hop.writes hu (hswap.trans hw)⟩
  | error r =>
    obtain ⟨-, -, rfl⟩ := toWord_error hw
    exact .inr ⟨_, hop.raises hs hw, hop.raises hu (hswap.trans hw)⟩

/-! ### regrouping the operands -/

theorem reduced_add (x y : Word) : reduced (· + ·) x y = x + y := by
  rw [reduced, BitVec.ofInt_add, BitVec.ofInt_toInt, BitVec.ofInt_toInt]

theorem reduced_mul (x y : Word) : reduced (· * ·) x y = x * y := by
  rw [reduced, BitVec.ofInt_mul, BitVec.ofInt_toInt, BitVec.ofInt_toInt]

/-- Under wrap the word at the destination is the reduced result. -/
theorem ExecutesArithmetic.eq_reduced_of_wrapGives {w : Word} (hop : ExecutesArithmetic op f)
    (h : WrapGives op s v1 v2 w) : w = reduced f v1 v2 := by
  obtain ⟨hwrap, m1, m2, m3, a, t, hr, ht, rfl⟩ := h
  obtain ⟨t', ht', hload, -⟩ := hop.writes_reduced hr (.inl hwrap)
  obtain rfl : t = t' := by rw [ht] at ht'; injection ht'
  exact hload

/-- What add and mul have in common (R80): an exact operation that commutes, and that associates once reduced. -/
theorem exists_executesArithmetic (hop : op = .add ∨ op = .mul) :
    ∃ f, ExecutesArithmetic op f ∧ (∀ x y, f x y = f y x) ∧
      ∀ x y z, reduced f (reduced f x y) z = reduced f x (reduced f y z) := by
  rcases hop with rfl | rfl
  · exact ⟨_, add_executesArithmetic, Int.add_comm, fun x y z => by simp only [reduced_add, BitVec.add_assoc]⟩
  · exact ⟨_, mul_executesArithmetic, Int.mul_comm, fun x y z => by simp only [reduced_mul, BitVec.mul_assoc]⟩

/-- Settles O12: the outcomes depend on the exact result, which commutes, and under wrap the words left are the reduced
results, which associate. -/
theorem arithmeticCommutesAndAssociates : Obligations.ArithmeticCommutesAndAssociates := by
  intro op hadd
  obtain ⟨f, hop, hcomm, hassoc⟩ := exists_executesArithmetic hadd
  refine ⟨fun s m1 m2 m3 n1 n2 n3 v1 v2 h1 h2 k1 k2 hd => ?oneState,
    fun s u m1 m2 m3 n1 n2 n3 v1 v2 a b ho hs hu => hop.swap_outcomes hcomm ho hs hu,
    fun s1 s2 s3 s4 v1 v2 v3 p q left right hp hl hq hr => ?regrouped⟩
  case oneState => rw [hop, hop, arithmetic_swap hcomm h1 h2 k1 k2 hd]
  case regrouped =>
    obtain rfl := hop.eq_reduced_of_wrapGives hp
    obtain rfl := hop.eq_reduced_of_wrapGives hq
    rw [hop.eq_reduced_of_wrapGives hl, hop.eq_reduced_of_wrapGives hr, hassoc]

end Sys2Proof.Machine
end

section
/-!
The I/O Bridge computed forward (R83 to R87, R91 to R93): from the host's move, what a hand-off, input, output and a step
of the host alone answer.
-/

namespace Sys2Proof.Machine

variable {i : Instr} {s t : State} {h : HostSide} {m1 : Mode} {v : Word} {a : Nat} {r : Raised}

/-! ### the word of format F1 -/

/-- The word of a well-formed instruction of format F1 decodes to it in both settings of R59. -/
theorem decode_word_of_modes_one (hmodes : i.modes = [m1]) (hwf : i.wellFormed = true) (strict : Bool) :
    decode strict (BitVec.ofNat 64 (i.opcode + 100 * m1.digit)) = .ok i := by
  rw [← encode_toNat_of_modes_one hmodes, BitVec.ofNat_toNat, BitVec.setWidth_eq]
  exact encodedWordDecodesToItself i strict hwf

theorem isDestination_of_ne_immediate {m : Mode} (hm : m ≠ .immediate) : m.isDestination = true := by
  cases m with
  | immediate => exact absurd rfl hm
  | position | relative => rfl

/-! ### which moves of the host complete a hand-off -/

theorem takesOutput_iff : takesOutput h = true ↔ hostMove h = .recvData ∨ hostMove h = .serve := by
  unfold takesOutput
  cases hostMove h <;> simp

theorem takesPulse_iff : takesPulse h = true ↔ hostMove h = .recvReady ∨ hostMove h = .serve := by
  unfold takesPulse
  cases hostMove h <;> simp

theorem givesInput_of_sendData (hm : hostMove h = .sendData v) : givesInput h = some (v, h) := by
  simp [givesInput, hm]

theorem givesInput_of_serve {vs : List Word} (hm : hostMove h = .serve) (hi : h.inputs = v :: vs) :
    givesInput h = some (v, { h with inputs := vs }) := by
  simp [givesInput, hm, hi]

theorem givesInput_of_delay (hm : hostMove h = .delay) : givesInput h = none := by
  simp [givesInput, hm]

theorem takesOutput_of_delay (hm : hostMove h = .delay) : takesOutput h = false := by
  simp [takesOutput, hm]

theorem takesPulse_of_delay (hm : hostMove h = .delay) : takesPulse h = false := by
  simp [takesPulse, hm]

/-! ### output -/

theorem exec_output_of_taken (hv : src s m1 1 = .ok v) (ht : takesOutput s.host = true) :
    exec (.output m1) s = .next ((s.record (.sent v)).advance 2) := by
  simp [exec, execOutput, outputEffect, hv, send, ht, settle]

theorem exec_output_of_not_taken (hv : src s m1 1 = .ok v) (ht : takesOutput s.host = false) :
    exec (.output m1) s = .next s := by
  simp [exec, execOutput, outputEffect, hv, send, ht, settle]

theorem exec_output_of_fault (hr : src s m1 1 = .error r) : exec (.output m1) s = .next (s.raise r) := by
  simp [exec, execOutput, outputEffect, hr, settle]

/-- Settles O21: the host's move decides between the send and the wait, once the source resolves. -/
theorem outputSendsOrWaits : Obligations.OutputSendsOrWaits := by
  intro m1 s
  refine ⟨decode_word_of_modes_one (i := .output m1) rfl rfl, fun v hv hmove => ?sends, fun v hv hdata hserve => ?waits,
    fun r hr => execFaults_of_raise (exec_output_of_fault hr)⟩
  case sends =>
    exact ⟨_, exec_output_of_taken hv (takesOutput_iff.mpr hmove), rfl, rfl, rfl, fun _ => rfl, ⟨rfl, rfl, rfl⟩, rfl,
      rfl, rfl⟩
  case waits =>
    exact exec_output_of_not_taken hv (Bool.eq_false_iff.mpr fun ht => (takesOutput_iff.mp ht).elim hdata hserve)

/-! ### input -/

/-- The receive branch of R91 is the one without INTERACTIVE or after the pulse. -/
theorem not_pulseFirst_of_or (hphase : s.cfg.interactive = false ∨ s.ioPhase = .pulseDone) :
    ¬ (s.cfg.interactive = true ∧ s.ioPhase = .idle) := by
  rintro ⟨hint, hidle⟩
  rcases hphase with hoff | hdone
  · rw [hint] at hoff; cases hoff
  · rw [hidle] at hdone; cases hdone

theorem exec_input_of_pulseFirst (hd : dst s m1 1 = .ok a) (hint : s.cfg.interactive = true)
    (hidle : s.ioPhase = .idle) : exec (.input m1) s = .next (pulse s) := by
  simp [exec, execInput, inputEffect, hd, hint, hidle, settle]

theorem exec_input_of_not_pulseFirst (hd : dst s m1 1 = .ok a)
    (hphase : ¬ (s.cfg.interactive = true ∧ s.ioPhase = .idle)) :
    exec (.input m1) s = .next (receiveInto s a) := by
  simp [exec, execInput, inputEffect, hd, hphase, settle]

theorem exec_input_of_fault (hr : dst s m1 1 = .error r) : exec (.input m1) s = .next (s.raise r) := by
  simp [exec, execInput, inputEffect, hr, settle]

theorem receiveInto_of_given (a : Nat) (hopen : s.chan.dataClosed = false) (hg : givesInput s.host = some (v, h)) :
    receiveInto s a = { (((s.record (.received v)).store a v).setPhase .idle).advance 2 with host := h } := by
  simp only [receiveInto, recv, hopen, hg]
  rfl

theorem receiveInto_of_not_given (a : Nat) (hg : s.chan.dataClosed = true ∨ givesInput s.host = none) :
    receiveInto s a = s := by
  rcases hg with hg | hg <;> simp [receiveInto, recv, hg]

/-- Settles O22: the phase decides between the pulse and the receive, and the host's move between the receive and the wait,
once the destination resolves. -/
theorem inputPulsesThenReceives : Obligations.InputPulsesThenReceives := by
  intro m1 s
  refine ⟨fun hm => decode_word_of_modes_one (i := .input m1) rfl (isDestination_of_ne_immediate hm),
    fun a => exec_input_of_pulseFirst, fun a v h hd hphase hopen hg => ?receives, fun a hd hphase hg => ?waits,
    fun v => givesInput_of_sendData, fun v vs => givesInput_of_serve,
    fun r hr => execFaults_of_raise (exec_input_of_fault hr)⟩
  case receives =>
    have hexec := exec_input_of_not_pulseFirst hd (not_pulseFirst_of_or hphase)
    rw [receiveInto_of_given a hopen hg] at hexec
    exact ⟨_, hexec, s.load_store_self a v, fun _ hb => s.load_store_of_ne a v hb, rfl, rfl, rfl, ⟨rfl, rfl, rfl⟩, rfl,
      rfl, rfl⟩
  case waits => rw [exec_input_of_not_pulseFirst hd (not_pulseFirst_of_or hphase), receiveInto_of_not_given a hg]

/-! ### the readiness pulse -/

theorem pulse_of_accepted (hdepth : s.cfg.readyDepth = .zero) (ht : takesPulse s.host = true) :
    pulse s = (s.record .ready).setPhase .pulseDone := by
  simp [pulse, hdepth, ht]

theorem pulse_of_not_accepted (hdepth : s.cfg.readyDepth = .zero) (ht : takesPulse s.host = false) : pulse s = s := by
  simp [pulse, hdepth, ht]

theorem pulse_of_empty (hdepth : s.cfg.readyDepth = .one) (hslot : s.chan.readySlot = false) :
    pulse s = { (s.record .ready).setPhase .pulseDone with chan := { s.chan with readySlot := true } } := by
  simp [pulse, hdepth, hslot]

theorem pulse_of_full (hdepth : s.cfg.readyDepth = .one) (hslot : s.chan.readySlot = true) : pulse s = s := by
  simp [pulse, hdepth, hslot]

theorem pulse_host (s : State) : (pulse s).host = s.host := by
  rcases pulse_cases s with ⟨-, -, hp⟩ | ⟨-, -, hp⟩ | ⟨hp, -⟩ <;> rw [hp] <;> rfl

/-! ### the steps of the host alone -/

theorem step_of_hostStep (hhost : hostStep s = some t) : step s = .next (tick t) := by
  simp [step, hhost]

theorem hostStep_of_delay (hm : hostMove s.host = .delay) : hostStep s = none := by
  simp [hostStep, hm]

theorem hostStep_of_buffered (hslot : s.chan.readySlot = true) (hopen : s.chan.readyClosed = false)
    (hm : hostMove s.host = .recvReady ∨ hostMove s.host = .serve) : hostStep s = some (takeBufferedPulse s) := by
  rcases hm with hm | hm <;> simp [hostStep, hm, hslot, hopen]

theorem hostStep_of_dataClosed (hclosed : s.chan.dataClosed = true) (hm : hostMove s.host = .recvData) :
    hostStep s = some (readClosedData s) := by
  simp [hostStep, hm, hclosed]

theorem hostStep_of_readyClosed (hclosed : s.chan.readyClosed = true) (hm : hostMove s.host = .recvReady) :
    hostStep s = some (readClosedReady s) := by
  simp [hostStep, hm, hclosed]

/-- Settles O23: the host's move decides the hand-off at depth 0, the buffer the post at depth 1, and taking the buffered
pulse is a step of the host alone. -/
theorem pulseIsHandedOffOrPosted : Obligations.PulseIsHandedOffOrPosted := by
  intro s
  refine ⟨fun hdepth hm => ?accepted, fun hdepth hready hserve => ?notAccepted, fun hdepth hslot => ?posted,
    pulse_of_full, ?frame, fun hslot hopen hm => ?taken⟩
  case accepted =>
    rw [pulse_of_accepted hdepth (takesPulse_iff.mpr hm)]
    exact ⟨rfl, rfl, rfl⟩
  case notAccepted =>
    exact pulse_of_not_accepted hdepth (Bool.eq_false_iff.mpr fun ht => (takesPulse_iff.mp ht).elim hready hserve)
  case posted =>
    rw [pulse_of_empty hdepth hslot]
    exact ⟨rfl, rfl, rfl⟩
  case frame =>
    obtain ⟨hip, hrb⟩ := pulse_registers s
    exact ⟨State.load_congr (pulse_mem s), hip, hrb, pulse_sameStatus s, pulse_host s⟩
  case taken =>
    exact ⟨_, step_of_hostStep (hostStep_of_buffered hslot hopen hm), rfl, rfl, fun _ => rfl, rfl, rfl, ⟨rfl, rfl, rfl⟩,
      rfl, rfl⟩

/-- Settles O43: both reads are steps of the host alone; the second gives the pulse or EOS, by `readClosedReady_cases`. -/
theorem readsAfterCloseGiveEndOfStream : Obligations.ReadsAfterCloseGiveEndOfStream := by
  intro s
  refine ⟨fun hclosed hm => ?data, fun hclosed hm => ?ready⟩
  case data =>
    exact ⟨_, step_of_hostStep (hostStep_of_dataClosed hclosed hm), rfl, fun _ => rfl, rfl, rfl, ⟨rfl, rfl, rfl⟩, rfl,
      rfl, rfl⟩
  case ready =>
    refine ⟨_, step_of_hostStep (hostStep_of_readyClosed hclosed hm), ?_⟩
    rcases readClosedReady_cases s with ⟨hslot, hfirst, hread⟩ | hread <;> rw [hread]
    · exact ⟨rfl, .inr ⟨rfl, rfl, hslot, hfirst⟩, fun _ => rfl, rfl, rfl, ⟨rfl, rfl, rfl⟩, rfl, rfl⟩
    · exact ⟨rfl, .inl ⟨rfl, rfl⟩, fun _ => rfl, rfl, rfl, ⟨rfl, rfl, rfl⟩, rfl, rfl⟩

end Sys2Proof.Machine
end

section
/-!
What the core offers, and where an event comes from (R82, R89, R90, R93): a step records at most one event, of the hand-off
the core offered, of a halt, or of a buffered pulse; and a core whose offer the host does not take up stays as it is.
-/

namespace Sys2Proof.Machine

variable {i : Instr} {s t : State} {m1 : Mode} {v : Word} {a : Nat} {e : Event} {o : Offer}

/-! ### the offer -/

theorem offer_of_output (hrun : s.run = .running) (hf : fetch s = .ok (.output m1)) (hv : src s m1 1 = .ok v) :
    offer s = some (.send v) := by
  simp [offer, hrun, hf, hv]

theorem offer_of_pulseFirst (hrun : s.run = .running) (hf : fetch s = .ok (.input m1)) (hd : dst s m1 1 = .ok a)
    (hint : s.cfg.interactive = true) (hidle : s.ioPhase = .idle) : offer s = some .pulse := by
  simp [offer, hrun, hf, hd, hint, hidle]

theorem offer_of_not_pulseFirst (hrun : s.run = .running) (hf : fetch s = .ok (.input m1)) (hd : dst s m1 1 = .ok a)
    (hphase : ¬ (s.cfg.interactive = true ∧ s.ioPhase = .idle)) : offer s = some (.recv a) := by
  simp [offer, hrun, hf, hd, hphase]

/-- Only a Running core at an output or an input whose parameter resolves offers a hand-off. -/
theorem offer_cases (h : offer s = some o) :
    s.run = .running ∧
      ((∃ m1 v, fetch s = .ok (.output m1) ∧ src s m1 1 = .ok v ∧ o = .send v) ∨
        ∃ m1 a, fetch s = .ok (.input m1) ∧ dst s m1 1 = .ok a ∧
          ((s.cfg.interactive = true ∧ s.ioPhase = .idle ∧ o = .pulse) ∨
            (¬ (s.cfg.interactive = true ∧ s.ioPhase = .idle) ∧ o = .recv a))) := by
  unfold offer at h
  split at h
  · cases h
  · cases h
  · next hrun =>
    refine ⟨hrun, ?_⟩
    split at h
    · cases h
    · next m1 hf =>
      split at h
      · cases h
      · next a hd =>
        refine .inr ⟨m1, a, hf, hd, ?_⟩
        split at h
        · next hphase =>
          simp only [Bool.and_eq_true, beq_iff_eq] at hphase
          cases h; exact .inl ⟨hphase.1, hphase.2, rfl⟩
        · next hphase =>
          simp only [Bool.and_eq_true, beq_iff_eq] at hphase
          cases h; exact .inr ⟨hphase, rfl⟩
    · next m1 hf =>
      split at h
      · cases h
      · next v hv => cases h; exact .inl ⟨m1, v, hf, hv, rfl⟩
    · cases h

/-- The host's side plays no part in what the core offers. -/
theorem offer_tick (s : State) : offer (tick s) = offer s := rfl

/-! ### the event of a step -/

/-- Where the event `e` of a step from `s` to `t` comes from. -/
inductive EventSource (s t : State) : Event → Prop
  | sent (v : Word) (offered : offer s = some (.send v)) : EventSource s t (.sent v)
  | received (v : Word) (a : Nat) (offered : offer s = some (.recv a)) (loaded : t.load a = v) :
      EventSource s t (.received v)
  | ready (offered : offer s = some .pulse) : EventSource s t .ready
  | readyTaken (slot : s.chan.readySlot = true) (move : hostMove s.host = .recvReady ∨ hostMove s.host = .serve) :
      EventSource s t .readyTaken
  | close (fetched : fetch s = .ok .halt) : EventSource s t .close

/-- The trace is as before, or has one event more, which has its source. -/
def TraceExplained (s t : State) : Prop :=
  t.trace = s.trace ∨ ∃ e, t.trace = s.trace ++ [e] ∧ EventSource s t e

theorem TraceExplained.recorded (htrace : t.trace = s.trace ++ [e]) (he : EventSource s t e) : TraceExplained s t :=
  .inr ⟨e, htrace, he⟩

theorem hostStep_traceExplained (h : hostStep s = some t) : TraceExplained s (tick t) := by
  rcases hostStep_cases h with ⟨-, -, rfl⟩ | ⟨hm, -, rfl⟩ | ⟨hm, -, hslot, rfl⟩
  · exact .inl rfl
  · rcases readClosedReady_cases s with ⟨hslot, -, hread⟩ | hread <;> rw [hread]
    · exact .recorded rfl (.readyTaken hslot (.inl hm))
    · exact .inl rfl
  · exact .recorded rfl (.readyTaken hslot hm)

theorem pulse_traceExplained (hoffer : offer s = some .pulse) : TraceExplained s (tick (pulse s)) := by
  rcases pulse_cases s with ⟨-, -, hp⟩ | ⟨-, -, hp⟩ | ⟨hp, -⟩ <;> rw [hp]
  · exact .recorded rfl (.ready hoffer)
  · exact .recorded rfl (.ready hoffer)
  · exact .inl rfl

theorem receiveInto_traceExplained (hoffer : offer s = some (.recv a)) : TraceExplained s (tick (receiveInto s a)) := by
  rcases receiveInto_cases s a with ⟨v, h, -, -, hr⟩ | ⟨hr, -⟩ <;> rw [hr]
  · exact .recorded rfl (.received v a hoffer (s.load_store_self a v))
  · exact .inl rfl

/-- An instruction of a Running core that is fetched at `s`: its hand-off is the one offered. -/
theorem exec_traceExplained (hrun : s.run = .running) (hf : fetch s = .ok i) (h : exec i s = .next t) :
    TraceExplained s (tick t) := by
  rcases exec_cases h with ⟨r, rfl⟩ | ⟨m1, m2, m3, _, _, a, v, -, -, rfl⟩ | ⟨m1, a, rfl, hd, hint, hidle, rfl⟩ |
    ⟨m1, a, rfl, hd, hphase, rfl⟩ | ⟨m1, v, rfl, hv, ⟨-, rfl⟩ | ⟨-, rfl⟩⟩ | ⟨m1, m2, _, _, -, -, ⟨-, rfl⟩ | rfl⟩ |
    ⟨m1, _, b, rfl, -, rfl⟩ | ⟨rfl, rfl⟩
  case inr.inr.inl => exact pulse_traceExplained (offer_of_pulseFirst hrun hf hd hint hidle)
  case inr.inr.inr.inl => exact receiveInto_traceExplained (offer_of_not_pulseFirst hrun hf hd hphase)
  case inr.inr.inr.inr.inl.inl => exact .recorded rfl (.sent v (offer_of_output hrun hf hv))
  case inr.inr.inr.inr.inr.inr.inr => exact .recorded rfl (.close hf)
  all_goals exact .inl rfl

theorem step_traceExplained (h : step s = .next t) : TraceExplained s t := by
  rcases step_cases h with ⟨u, hu, rfl⟩ | ⟨-, hrun, ⟨r, -, rfl⟩ | ⟨i, u, hi, hu, rfl⟩⟩
  · exact hostStep_traceExplained hu
  · exact .inl rfl
  · exact exec_traceExplained hrun hi hu

/-- The event at the end of a grown trace is the one that has a source. -/
theorem TraceExplained.source (h : TraceExplained s t) (htrace : t.trace = s.trace ++ [e]) : EventSource s t e := by
  rcases h with hsame | ⟨e', htrace', he'⟩
  · simp [hsame] at htrace
  · obtain rfl : e = e' := by simpa [htrace] using htrace'
    exact he'

/-- Settles O36: what a step's trace has more is the one event that `step_traceExplained` explains. -/
theorem traceGrowsByAtMostOneEvent : Obligations.TraceGrowsByAtMostOneEvent := by
  intro s t h
  exact (step_traceExplained h).imp_right fun ⟨e, htrace, _⟩ => ⟨e, htrace⟩

/-- Settles O37: each kind of event has one kind of source. -/
theorem eventsComeFromOffers : Obligations.EventsComeFromOffers := by
  intro s t h
  have source : ∀ {e}, t.trace = s.trace ++ [e] → EventSource s t e := (step_traceExplained h).source
  refine ⟨fun v htrace => ?sent, fun v htrace => ?received, fun htrace => ?ready, fun htrace => ?readyTaken,
    fun htrace => ?close⟩
  case sent => cases source htrace with | sent _ offered => exact offered
  case received => cases source htrace with | received _ a offered loaded => exact ⟨a, offered, loaded⟩
  case ready => cases source htrace with | ready offered => exact offered
  case readyTaken => cases source htrace with | readyTaken slot move => exact ⟨slot, move⟩
  case close => cases source htrace with | close fetched => exact fetched

/-! ### a core that is not served -/

/-- A pulse waits while no host accepts it at depth 0, or while the buffer is full at depth 1. -/
theorem pulse_of_delay (hm : hostMove s.host = .delay)
    (hwait : s.cfg.readyDepth = .zero ∨ s.chan.readySlot = true) : pulse s = s := by
  cases hdepth : s.cfg.readyDepth with
  | zero => exact pulse_of_not_accepted hdepth (takesPulse_of_delay hm)
  | one => exact pulse_of_full hdepth (hwait.resolve_left (by simp [hdepth]))

/-- A step in which the host delays and the core waits for it only uses up the host's move (R76). -/
theorem step_of_unserved (hm : hostMove s.host = .delay) (hoffer : offer s = some o)
    (hwait : o = .pulse → s.cfg.readyDepth = .zero ∨ s.chan.readySlot = true) : step s = .next (tick s) := by
  obtain ⟨hrun, ⟨m1, v, hf, hv, rfl⟩ | ⟨m1, a, hf, hd, ⟨hint, hidle, rfl⟩ | ⟨hphase, rfl⟩⟩⟩ := offer_cases hoffer
  all_goals refine step_of_exec hrun (hostStep_of_delay hm) hf ?_
  · exact exec_output_of_not_taken hv (takesOutput_of_delay hm)
  · rw [exec_input_of_pulseFirst hd hint hidle, pulse_of_delay hm (hwait rfl)]
  · rw [exec_input_of_not_pulseFirst hd hphase, receiveInto_of_not_given a (.inr (givesInput_of_delay hm))]

theorem run_succ_of_step {n : Nat} (h : step s = .next t) : core.run (n + 1) s = core.run n t := by
  have hcore : core.step s = .next t := h
  simp only [Host.Core.run, hcore]

theorem hostMove_of_schedule_nil {h : HostSide} (hs : h.schedule = []) : hostMove h = h.rest := by
  simp [hostMove, hs]

/-- Settles O41, by induction on the number of steps: a delaying host still delays after `tick`, and the offer stands. -/
theorem unservedCoreWaitsForever : Obligations.UnservedCoreWaitsForever := by
  intro n
  induction n with
  | zero =>
    intro s o _ _ hoffer _
    exact ⟨s, rfl, (offer_cases hoffer).1, rfl, rfl, rfl, rfl, rfl, rfl, rfl, rfl⟩
  | succ n ih =>
    intro s o hsched hrest hoffer hwait
    have hm : hostMove s.host = .delay := by rw [hostMove_of_schedule_nil hsched, hrest]
    have hsched' : (tick s).host.schedule = [] := by simp [tickHost, hsched]
    rw [run_succ_of_step (step_of_unserved hm hoffer hwait)]
    exact ih (tick s) o hsched' hrest hoffer hwait

end Sys2Proof.Machine
end

section
/-!
jump-if-true and jump-if-false (R95 to R97): each settles a jump that is taken on its own condition. Where a jump goes, and
what it raises, is said once for every condition.
-/

namespace Sys2Proof.Machine

variable {i : Instr} {s : State} {m1 m2 : Mode} {v1 v2 : Word} {r : Raised} {op : Mode → Mode → Instr}
  {taken : Word → Bool}

/-! ### the word of format F2 -/

/-- The word of a format F2 instruction decodes to it in both settings of R59. -/
theorem decode_word_of_modes_two (hmodes : i.modes = [m1, m2]) (hwf : i.wellFormed = true) (strict : Bool) :
    decode strict (BitVec.ofNat 64 (i.opcode + 100 * m1.digit + 1000 * m2.digit)) = .ok i := by
  rw [← encode_toNat_of_modes_two hmodes, BitVec.ofNat_toNat, BitVec.setWidth_eq]
  exact encodedWordDecodesToItself i strict hwf

/-! ### what a jump answers -/

theorem jump_of_taken (hv1 : src s m1 1 = .ok v1) (hv2 : src s m2 2 = .ok v2) (ht : taken v1 = true)
    (h0 : 0 ≤ v2.toInt) : jump taken s m1 m2 = .ok (s.setIp v2.toInt.toNat) := by
  simp only [jump, sources_ok_iff.mpr ⟨hv1, hv2⟩, if_pos ht, if_neg h0.not_gt]

/-- A taken jump checks its target (R95). -/
theorem jump_of_taken_of_neg (hv1 : src s m1 1 = .ok v1) (hv2 : src s m2 2 = .ok v2) (ht : taken v1 = true)
    (hneg : v2.toInt < 0) : jump taken s m1 m2 = .error { cause := .invalidAddress, info := v2.toInt } := by
  simp only [jump, sources_ok_iff.mpr ⟨hv1, hv2⟩, if_pos ht, if_pos hneg]

/-- A jump that is not taken resolves its target and does not check it. -/
theorem jump_of_not_taken (hv1 : src s m1 1 = .ok v1) (hv2 : src s m2 2 = .ok v2) (ht : taken v1 = false) :
    jump taken s m1 m2 = .ok (s.advance 3) := by
  simp only [jump, sources_ok_iff.mpr ⟨hv1, hv2⟩, if_neg (Bool.eq_false_iff.mp ht)]

theorem jump_of_firstFault (taken : Word → Bool) (h : FirstFaultSS s m1 m2 r) : jump taken s m1 m2 = .error r := by
  rw [jump, sources_error_iff.mpr h]

/-! ### instructions that settle a jump -/

/-- Each form of `op` settles the jump that is taken on `taken`. -/
def ExecutesJump (op : Mode → Mode → Instr) (taken : Word → Bool) : Prop :=
  ∀ m1 m2 s, exec (op m1 m2) s = settle s (jump taken s m1 m2)

theorem jumpIfTrue_executesJump : ExecutesJump .jumpIfTrue (· != 0) := fun _ _ _ => rfl

theorem jumpIfFalse_executesJump : ExecutesJump .jumpIfFalse (· == 0) := fun _ _ _ => rfl

theorem execMovesTo_of_setIp {target : Nat} (h : exec i s = .next (s.setIp target)) : ExecMovesTo i s target :=
  ⟨_, h, rfl, rfl, fun _ => rfl, ⟨rfl, rfl, rfl⟩, rfl, rfl, rfl, rfl⟩

theorem ExecutesJump.moves_of_taken (hop : ExecutesJump op taken) (hv1 : src s m1 1 = .ok v1)
    (hv2 : src s m2 2 = .ok v2) (ht : taken v1 = true) (h0 : 0 ≤ v2.toInt) :
    ExecMovesTo (op m1 m2) s v2.toInt.toNat :=
  execMovesTo_of_setIp (by rw [hop, jump_of_taken hv1 hv2 ht h0]; rfl)

theorem ExecutesJump.faults_of_taken_of_neg (hop : ExecutesJump op taken) (hv1 : src s m1 1 = .ok v1)
    (hv2 : src s m2 2 = .ok v2) (ht : taken v1 = true) (hneg : v2.toInt < 0) :
    ExecFaults (op m1 m2) s { cause := .invalidAddress, info := v2.toInt } :=
  execFaults_of_raise (by rw [hop, jump_of_taken_of_neg hv1 hv2 ht hneg]; rfl)

theorem ExecutesJump.moves_of_not_taken (hop : ExecutesJump op taken) (hv1 : src s m1 1 = .ok v1)
    (hv2 : src s m2 2 = .ok v2) (ht : taken v1 = false) : ExecMovesTo (op m1 m2) s (s.ip + 3) :=
  execMovesTo_of_setIp (by rw [hop, jump_of_not_taken hv1 hv2 ht]; rfl)

theorem ExecutesJump.faults (hop : ExecutesJump op taken) (h : FirstFaultSS s m1 m2 r) : ExecFaults (op m1 m2) s r :=
  execFaults_of_raise (by rw [hop, jump_of_firstFault taken h]; rfl)

/-- Settles O18: jump-if-true settles the jump that is taken on every word but 0. -/
theorem jumpIfTrueMovesOrFallsThrough : Obligations.JumpIfTrueMovesOrFallsThrough := by
  intro m1 m2 s
  have hop := jumpIfTrue_executesJump
  refine ⟨decode_word_of_modes_two (i := .jumpIfTrue m1 m2) rfl rfl,
    fun v1 v2 hv1 hv2 => ⟨fun hne => ?taken, fun hne => ?negative, fun h0 => ?notTaken⟩, fun _ => hop.faults⟩
  case taken => exact hop.moves_of_taken hv1 hv2 (bne_iff_ne.mpr hne)
  case negative => exact hop.faults_of_taken_of_neg hv1 hv2 (bne_iff_ne.mpr hne)
  case notTaken => exact hop.moves_of_not_taken hv1 hv2 (bne_eq_false_iff_eq.mpr h0)

/-- Settles O19: jump-if-false settles the jump that is taken on 0 alone. -/
theorem jumpIfFalseMovesOrFallsThrough : Obligations.JumpIfFalseMovesOrFallsThrough := by
  intro m1 m2 s
  have hop := jumpIfFalse_executesJump
  refine ⟨decode_word_of_modes_two (i := .jumpIfFalse m1 m2) rfl rfl,
    fun v1 v2 hv1 hv2 => ⟨fun h0 => ?taken, fun h0 => ?negative, fun hne => ?notTaken⟩, fun _ => hop.faults⟩
  case taken => exact hop.moves_of_taken hv1 hv2 (beq_iff_eq.mpr h0)
  case negative => exact hop.faults_of_taken_of_neg hv1 hv2 (beq_iff_eq.mpr h0)
  case notTaken => exact hop.moves_of_not_taken hv1 hv2 (beq_eq_false_iff_ne.mpr hne)

end Sys2Proof.Machine
end

section
/-!
less-than and equals (R98, R99): each settles a comparison of the signed values of its sources. What a comparison
writes, and what it raises, is said once for every relation.
-/

namespace Sys2Proof.Machine

variable {s : State} {m1 m2 m3 : Mode} {v1 v2 : Word} {a : Nat} {r : Raised} {op : Mode → Mode → Mode → Instr}
  {p : Int → Int → Bool}

/-! ### what a comparison answers -/

/-- Once the parameters resolve, a comparison always writes: it has no fault of its own (R98). -/
theorem comparison_of_resolves (p : Int → Int → Bool) (hr : ResolvesSSD s m1 m2 m3 v1 v2 a) :
    comparison p s m1 m2 m3 = .ok ((s.store a (truthWord (p v1.toInt v2.toInt))).advance 4) := by
  rw [comparison, sourcesAndDestination_ok_iff.mpr hr]

theorem comparison_of_firstFault (p : Int → Int → Bool) (h : FirstFaultSSD s m1 m2 m3 r) :
    comparison p s m1 m2 m3 = .error r := by
  rw [comparison, sourcesAndDestination_error_iff.mpr h]

theorem truthWord_decide (q : Prop) [Decidable q] : truthWord (decide q) = if q then 1 else 0 := by
  simp only [truthWord, decide_eq_true_eq]

/-! ### instructions that settle a comparison -/

/-- Each form of `op` settles the comparison by `p`. -/
def ExecutesComparison (op : Mode → Mode → Mode → Instr) (p : Int → Int → Bool) : Prop :=
  ∀ m1 m2 m3 s, exec (op m1 m2 m3) s = settle s (comparison p s m1 m2 m3)

theorem lessThan_executesComparison : ExecutesComparison .lessThan (fun x y => decide (x < y)) := fun _ _ _ _ => rfl

theorem equals_executesComparison : ExecutesComparison .equals (fun x y => decide (x = y)) := fun _ _ _ _ => rfl

theorem ExecutesComparison.writes (hop : ExecutesComparison op p) (hr : ResolvesSSD s m1 m2 m3 v1 v2 a) :
    ExecWrites (op m1 m2 m3) s a (truthWord (p v1.toInt v2.toInt)) :=
  execWrites_of_store (by rw [hop, comparison_of_resolves p hr]; rfl)

theorem ExecutesComparison.faults (hop : ExecutesComparison op p) (h : FirstFaultSSD s m1 m2 m3 r) :
    ExecFaults (op m1 m2 m3) s r :=
  execFaults_of_raise (by rw [hop, comparison_of_firstFault p h]; rfl)

/-- Settles O15: less-than settles the comparison by the signed order. -/
theorem lessThanWritesOneOrZero : Obligations.LessThanWritesOneOrZero := by
  intro m1 m2 m3 s
  have hop := lessThan_executesComparison
  refine ⟨decode_word_of_modes_three (i := .lessThan m1 m2 m3) rfl rfl, fun v1 v2 a hr => ?writes,
    fun _ => hop.faults⟩
  case writes => rw [← truthWord_decide]; exact hop.writes hr

/-- Settles O16: equals settles the comparison by equality of the signed values, which is equality of the words. -/
theorem equalsWritesOneOrZero : Obligations.EqualsWritesOneOrZero := by
  intro m1 m2 m3 s
  have hop := equals_executesComparison
  refine ⟨decode_word_of_modes_three (i := .equals m1 m2 m3) rfl rfl, fun v1 v2 a hr => ?writes,
    fun _ => hop.faults⟩
  case writes => simp only [← BitVec.toInt_inj, ← truthWord_decide]; exact hop.writes hr

end Sys2Proof.Machine
end

section
/-!
adjust-base and halt (R100, R101): what each answers, computed forward, and that the host's steps after a halt leave the
core as the halt left it.
-/

namespace Sys2Proof.Machine

variable {s : State} {m1 : Mode} {v1 b : Word} {r : Raised} {strict : Bool} {w : Word}

/-! ### adjust-base -/

theorem exec_adjustBase_of_toWord_ok (hv : src s m1 1 = .ok v1)
    (hw : toWord s.cfg.overflow (s.rb.toInt + v1.toInt) = .ok b) :
    exec (.adjustBase m1) s = .next ((s.setBase b).advance 2) := by
  simp only [exec, execAdjustBase, adjustBaseEffect, hv, hw, settle]

theorem exec_adjustBase_of_toWord_error (hv : src s m1 1 = .ok v1)
    (hw : toWord s.cfg.overflow (s.rb.toInt + v1.toInt) = .error r) :
    exec (.adjustBase m1) s = .next (s.raise r) := by
  simp only [exec, execAdjustBase, adjustBaseEffect, hv, hw, settle]

theorem exec_adjustBase_of_fault (hr : src s m1 1 = .error r) : exec (.adjustBase m1) s = .next (s.raise r) := by
  simp only [exec, execAdjustBase, adjustBaseEffect, hr, settle]

/-- Settles O17: once the operand resolves, `toWord` decides between the new base and the fault; by `exec_rb` no other
instruction changes `rb`. -/
theorem adjustBaseAddsToBase : Obligations.AdjustBaseAddsToBase := by
  intro m1 s
  refine ⟨decode_word_of_modes_one (i := .adjustBase m1) rfl rfl, fun v1 hv h => ?adds, fun v1 hv ho hout => ?overflows,
    fun r hr => execFaults_of_raise (exec_adjustBase_of_fault hr), fun i t h hne => (exec_rb h).resolve_left hne⟩
  case adds =>
    exact ⟨_, exec_adjustBase_of_toWord_ok hv (toWord_of_wrap_or_inRange h), rfl, rfl, fun _ => rfl, ⟨rfl, rfl, rfl⟩,
      rfl, rfl, rfl, rfl⟩
  case overflows =>
    exact execFaults_of_raise (exec_adjustBase_of_toWord_error hv (by rw [ho, toWord_fault_outOfRange hout]))

/-! ### halt -/

/-- A word of opcode 99 decodes to halt, up to its other digits, none of which is a mode (R59, R101). -/
theorem decode_of_opcode_halt (h0 : 0 ≤ w.toInt) (hop : w.toNat % 100 = 99) :
    decode strict w = checkUnused strict w.toNat 0 .halt :=
  decode_of_modes (i := .halt) h0 hop.symm rfl

theorem checkUnused_strict (v n : Nat) (i : Instr) :
    checkUnused true v n i = if v / 10 ^ (n + 2) = 0 then .ok i else .error .illegalMode := by
  split
  case isTrue h => exact checkUnused_ok_iff.mpr ⟨rfl, fun _ => h⟩
  case isFalse h => exact checkUnused_strict_of_ne h

/-- Settles O20: halt answers the closed state, whose core a later step leaves alone by `stoppedCoreStaysStopped`. -/
theorem haltClosesAndStops : Obligations.HaltClosesAndStops := by
  refine ⟨fun w h0 hop => ?lenient, fun w h0 hop => ?strict, fun s => ⟨{ closeAll s with run := .halted }, rfl, rfl, rfl,
    fun hon => ?closesReady, fun hoff => ?keepsReady, rfl, rfl, fun _ => rfl, rfl, rfl, rfl, rfl, rfl, rfl,
    fun u hu => ?later⟩⟩
  case lenient => rw [decode_of_opcode_halt h0 hop, checkUnused_lenient]
  case strict => exact (decode_of_opcode_halt h0 hop).trans (checkUnused_strict w.toNat 0 .halt)
  case closesReady => simp [hon]
  case keepsReady => simp [hoff]
  case later =>
    obtain ⟨-, -, hstays⟩ := stoppedCoreStaysStopped { closeAll s with run := .halted } nofun
    obtain ⟨hrun, hfault, hmem, hip, hrb, hphase⟩ := hstays u hu
    exact ⟨hrun, State.load_congr hmem, hip, hrb, hfault, hphase⟩

end Sys2Proof.Machine
end

section
/-!
The causes a fault can have (R103): fault entry itself (R111), what the resolve and execute parts of each instruction can
raise, and with what fetch and decode raise, the settings that a step's fault needs (R108, R109).
-/

namespace Sys2Proof.Machine

variable {i : Instr} {s t : State} {m m1 m2 m3 : Mode} {r : Raised} {k : Nat} {e : Except Raised State}

/-- Settles O24: fault entry is `State.raise`, which writes two fields. -/
theorem faultEntryRecordsAndStops : Obligations.FaultEntryRecordsAndStops := raise_entersFault

/-! ### the causes of an instruction -/

/-- The instructions whose exact result `toWord` reduces (R11). -/
def ReducesResult (i : Instr) : Prop :=
  (∃ m1 m2 m3, i = .add m1 m2 m3) ∨ (∃ m1 m2 m3, i = .mul m1 m2 m3) ∨ ∃ m1, i = .adjustBase m1

/-- The causes that the resolve and execute parts of `i` can raise at `s`, with what each needs of the configuration and
of the instruction (R103). The last is of an instruction that no word decodes to. -/
inductive ExecCause (s : State) (i : Instr) : Cause → Prop
  | address : ExecCause s i .invalidAddress
  | limit (limited : s.cfg.addrLimit ≠ none) (writes : i.destMode ≠ none) : ExecCause s i .capacityExceeded
  | overflow (faults : s.cfg.overflow = .fault) (reduces : ReducesResult i) : ExecCause s i .arithmeticOverflow
  | destination (immediate : i.destMode = some .immediate) : ExecCause s i .immediateDestination

theorem execCause_of_src (h : src s m k = .error r) : ExecCause s i r.cause := by
  rw [src_error_cause h]
  exact .address

theorem execCause_of_dst (hm : i.destMode = some m) (h : dst s m k = .error r) : ExecCause s i r.cause := by
  rcases dst_error_cause h with hc | ⟨hc, hlimit⟩ | ⟨hc, rfl⟩ <;> rw [hc]
  · exact .address
  · exact .limit hlimit (by simp [hm])
  · exact .destination hm

theorem execCause_of_sources (h : sources s m1 m2 = .error r) : ExecCause s i r.cause := by
  rcases sources_error_iff.mp h with h1 | ⟨-, -, h2⟩
  · exact execCause_of_src h1
  · exact execCause_of_src h2

theorem execCause_of_sourcesAndDestination (hm : i.destMode = some m3)
    (h : sourcesAndDestination s m1 m2 m3 = .error r) : ExecCause s i r.cause := by
  rcases sourcesAndDestination_error_iff.mp h with (h1 | ⟨-, -, h2⟩) | ⟨-, -, -, -, h3⟩
  · exact execCause_of_src h1
  · exact execCause_of_src h2
  · exact execCause_of_dst hm h3

theorem execCause_of_toWord {x : Int} (hi : ReducesResult i) (h : toWord s.cfg.overflow x = .error r) :
    ExecCause s i r.cause := by
  obtain ⟨ho, -, rfl⟩ := toWord_error h
  exact .overflow ho hi

/-- A well-formed instruction has no immediate destination, which leaves three causes. -/
theorem ExecCause.of_wellFormed {c : Cause} (h : ExecCause s i c) (hwf : i.wellFormed = true) :
    c = .invalidAddress ∨ (c = .capacityExceeded ∧ s.cfg.addrLimit ≠ none ∧ i.destMode ≠ none) ∨
      (c = .arithmeticOverflow ∧ s.cfg.overflow = .fault ∧ ReducesResult i) := by
  cases h with
  | address => exact .inl rfl
  | limit limited writes => exact .inr (.inl ⟨rfl, limited, writes⟩)
  | overflow faults reduces => exact .inr (.inr ⟨rfl, faults, reduces⟩)
  | destination immediate => simp [Instr.wellFormed, immediate, Mode.isDestination] at hwf

/-! ### the causes of an effect -/

/-- The effect `e` of `i` at `s` enters no fault by itself: where it answers a state, `run` is as before, and where it
raises a fault, the cause is one of `i`. -/
structure RaisesOnlyCausesOf (s : State) (i : Instr) (e : Except Raised State) : Prop where
  run_of_ok : ∀ {u : State}, e = .ok u → u.run = s.run
  cause_of_error : ∀ {r : Raised}, e = .error r → ExecCause s i r.cause

theorem arithmetic_raisesOnly (f : Int → Int → Int) (hm : i.destMode = some m3) (hi : ReducesResult i) :
    RaisesOnlyCausesOf s i (arithmetic f s m1 m2 m3) where
  run_of_ok h := by
    obtain ⟨_, _, _, _, -, -, rfl⟩ := arithmetic_ok h
    rfl
  cause_of_error h := by
    rcases arithmetic_error h with hr | ⟨_, _, _, -, hw⟩
    · exact execCause_of_sourcesAndDestination hm hr
    · exact execCause_of_toWord hi hw

theorem comparison_raisesOnly (p : Int → Int → Bool) (hm : i.destMode = some m3) :
    RaisesOnlyCausesOf s i (comparison p s m1 m2 m3) where
  run_of_ok h := by
    obtain ⟨_, _, _, -, rfl⟩ := comparison_ok h
    rfl
  cause_of_error h := execCause_of_sourcesAndDestination hm (comparison_error h)

theorem jump_raisesOnly (taken : Word → Bool) : RaisesOnlyCausesOf s i (jump taken s m1 m2) where
  run_of_ok h := by
    obtain ⟨_, _, -, ⟨-, -, rfl⟩ | ⟨-, rfl⟩⟩ := jump_ok h <;> rfl
  cause_of_error h := by
    rcases jump_error h with hr | ⟨_, _, -, -, -, rfl⟩
    · exact execCause_of_sources hr
    · exact .address

theorem inputEffect_raisesOnly (hm : i.destMode = some m1) : RaisesOnlyCausesOf s i (inputEffect s m1) where
  run_of_ok h := by
    obtain ⟨a1, -, ⟨-, -, rfl⟩ | ⟨-, rfl⟩⟩ := input_ok h
    · exact (pulse_sameStatus s).1
    · exact (receiveInto_sameStatus s a1).1
  cause_of_error h := execCause_of_dst hm (input_error h)

theorem outputEffect_raisesOnly : RaisesOnlyCausesOf s i (outputEffect s m1) where
  run_of_ok h := by
    obtain ⟨_, -, ⟨-, rfl⟩ | ⟨-, rfl⟩⟩ := output_ok h <;> rfl
  cause_of_error h := execCause_of_src (output_error h)

theorem adjustBaseEffect_raisesOnly (hi : ReducesResult i) : RaisesOnlyCausesOf s i (adjustBaseEffect s m1) where
  run_of_ok h := by
    obtain ⟨_, _, -, -, rfl⟩ := adjustBase_ok h
    rfl
  cause_of_error h := by
    rcases adjustBase_error h with hr | ⟨_, -, hw⟩
    · exact execCause_of_src hr
    · exact execCause_of_toWord hi hw

/-- Settling such an effect takes a Running core to a Faulted one only by raising a cause of the instruction. -/
theorem RaisesOnlyCausesOf.settle_execCause (he : RaisesOnlyCausesOf s i e) (h : settle s e = .next t)
    (hrun : s.run = .running) (hfaulted : t.run = .faulted) : ∃ r, t = s.raise r ∧ ExecCause s i r.cause := by
  rcases settle_next.mp h with hok | ⟨r, herr, rfl⟩
  · rw [he.run_of_ok hok, hrun] at hfaulted; cases hfaulted
  · exact ⟨r, rfl, he.cause_of_error herr⟩

/-- An instruction, well-formed or not, enters a fault only with one of its causes; halt enters none (R101). -/
theorem exec_execCause (h : exec i s = .next t) (hrun : s.run = .running) (hfaulted : t.run = .faulted) :
    i ≠ .halt ∧ ∃ r, t = s.raise r ∧ ExecCause s i r.cause := by
  cases i with
  | add => exact ⟨nofun, (arithmetic_raisesOnly _ rfl (.inl ⟨_, _, _, rfl⟩)).settle_execCause h hrun hfaulted⟩
  | mul => exact ⟨nofun, (arithmetic_raisesOnly _ rfl (.inr (.inl ⟨_, _, _, rfl⟩))).settle_execCause h hrun hfaulted⟩
  | input => exact ⟨nofun, (inputEffect_raisesOnly rfl).settle_execCause h hrun hfaulted⟩
  | output => exact ⟨nofun, outputEffect_raisesOnly.settle_execCause h hrun hfaulted⟩
  | jumpIfTrue | jumpIfFalse => exact ⟨nofun, (jump_raisesOnly _).settle_execCause h hrun hfaulted⟩
  | lessThan | equals => exact ⟨nofun, (comparison_raisesOnly _ rfl).settle_execCause h hrun hfaulted⟩
  | adjustBase => exact ⟨nofun, (adjustBaseEffect_raisesOnly (.inr (.inr ⟨_, rfl⟩))).settle_execCause h hrun hfaulted⟩
  | halt => cases h; cases hfaulted

/-- Settles O28: the causes of `exec_execCause`, as `ExecCause.of_wellFormed` lists them. -/
theorem causesOfEachInstruction : Obligations.CausesOfEachInstruction := by
  intro i s t f hwf h hrun hfaulted hf
  obtain ⟨hhalt, r, rfl, hcause⟩ := exec_execCause h hrun hfaulted
  cases hf
  exact ⟨hhalt, hcause.of_wellFormed hwf⟩

/-! ### the causes of a step -/

/-- The causes that fetch and decode can raise (R103). -/
theorem fetch_error_cause (h : fetch s = .error r) :
    r.cause = .invalidAddress ∨ r.cause = .illegalOpcode ∨ r.cause = .illegalMode ∨ r.cause = .immediateDestination := by
  rcases fetch_error h with ⟨-, rfl⟩ | ⟨-, c, hd, rfl⟩
  · exact .inl rfl
  · rcases everyWordDecodesOrFaults s.cfg.strictUnusedModes (s.load s.ip) with ⟨_, hok, -⟩ | hc
    · rw [hd] at hok; cases hok
    · simpa [hd] using Or.inr hc

/-- Settles O27: the host's steps leave `run` alone, fetch and decode raise neither cause, and `causesOfEachInstruction`
says what each needs of the configuration. -/
theorem limitAndOverflowFaultsNeedTheirSetting : Obligations.LimitAndOverflowFaultsNeedTheirSetting := by
  intro s t f h hrun hfaulted hf
  rcases step_cases h with ⟨u, hu, rfl⟩ | ⟨-, -, ⟨r, hr, rfl⟩ | ⟨i, u, hi, hu, rfl⟩⟩
  · obtain ⟨-, -, -, -, ⟨hsame, -, -⟩, -, -⟩ := hostStepsLeaveTheCore s u hu
    cases hrun.symm.trans (hsame.symm.trans hfaulted)
  · cases hf
    rcases fetch_error_cause hr with hc | hc | hc | hc <;> simp [hc]
  · obtain ⟨-, hc | ⟨hc, hlimit, -⟩ | ⟨hc, ho, -⟩⟩ :=
      causesOfEachInstruction i s u f (wellFormed_of_decode (fetch_ok hi).2) hu hrun hfaulted hf
    · simp [hc]
    · simp [hc, hlimit]
    · simp [hc, ho]

end Sys2Proof.Machine
end

section
/-!
The first step of the empty image (R122): the word 0, which no row of the opcode table lists, is fetched and refused.
-/

namespace Sys2Proof.Machine

/-- The opcode digits of the word 0 are no opcode of the table (R104). -/
theorem decode_zero (strict : Bool) : decode strict 0 = .error .illegalOpcode :=
  decode_eq_illegalOpcode_iff.mpr (.inr rfl)

/-- With the empty image the first fetch reads 0 (R122). -/
theorem State.reset_load_ip : State.reset.load State.reset.ip = 0 := rfl

/-- At reset the host serves and no pulse is buffered, so it has no step of its own. -/
theorem State.reset_hostStep : hostStep State.reset = none := rfl

/-- Settles O52: the core is Running, the host makes no step of its own, and the decode fault of the word 0 is taken
(`fetchAndDecodeFaultsAreTaken`). -/
theorem emptyImageFaultsAtOnce : Obligations.EmptyImageFaultsAtOnce := by
  obtain ⟨-, hillegal⟩ := fetchAndDecodeFaultsAreTaken State.reset rfl State.reset_hostStep
  rw [State.reset_load_ip] at hillegal
  exact hillegal (Nat.zero_le _) .illegalOpcode (decode_zero _)

end Sys2Proof.Machine
end
